-- ==== Sys2Proof/Word.lean ====
section
/-! DEFINITION. The word types of the FPE: an Index (00_scope.md R5), a working half (10_state.md R43, R44), a byte and the
16-byte hash message (00_scope.md R4, R7). -/

namespace Sys2Proof

/-- A 64-bit unsigned Index, "the universal value type for domain size, positions, and keys" (00_scope.md R5). -/
abbrev Word := BitVec 64

/-- A working half of a Feistel application, 32 bits (10_state.md R43, R44). -/
abbrev Half := BitVec 32

/-- A byte of the hash message or of a digest (00_scope.md R7). -/
abbrev Byte := BitVec 8

/-- The 16-byte hash message; entry 0 is the byte the hash consumes first (00_scope.md R4 `MSG_BYTES`, R7). -/
abbrev Msg := Vector Byte 16

/-- A digest: `DIGEST_BYTES` bytes, byte 0 first (00_scope.md R7; 10_state.md R47). `DIGEST_BYTES` is a parameter, so the
length is not part of the type; `digestOf` always answers that many bytes. -/
abbrev Digest := List Byte

end Sys2Proof
end

