-- ==== Sys2Proof/Syntax.lean ====
section
/-! DEFINITION. The commands of the FPE: one constructor per row of spec/opcode_table.json (30_encoding.md R92). -/

namespace Sys2Proof

/-- A command (30_encoding.md R92). Every operand but ROUNDF's `KSEL` is an implicit register (R91, R96). -/
inductive Instr where
  /-- No operation (44_control.md R237). -/
  | nop
  /-- Derive `LMASK`, `RMASK`, `HBITS` from `N` (40_precompute.md R120). -/
  | precompute
  /-- One forward application of `INDEX` (42_feistel_apply.md R176). -/
  | encode
  /-- One backward application of `INDEX` (42_feistel_apply.md R177). -/
  | decode
  /-- The cycle-walked forward permutation of `INDEX` (43_cycle_walk.md R200). -/
  | permute
  /-- The cycle-walked backward permutation of `INDEX` (43_cycle_walk.md R201). -/
  | invert
  /-- One round function value with the key `KEY[KSEL]` (41_round_function.md R157); `ksel` is the 2-bit field of R91. -/
  | roundf (ksel : BitVec 2)
  /-- Clear `DONE`, `ERR`, `ERRCODE`, `REJ` (44_control.md R239). -/
  | clear
  deriving DecidableEq, Repr

end Sys2Proof
end

