-- ==== Sys2Proof/WellFormed.lean ====
section
/-! DEFINITION. Which commands a legal command word can stand for (30_encoding.md R91, R93). -/

namespace Sys2Proof

/-- A command is well formed when its `KSEL` is one of the values R91 allows: 0, 1, 2 for ROUNDF; no other command has one. -/
def Instr.wellFormed : Instr → Bool
  | .nop => true
  | .precompute => true
  | .encode => true
  | .decode => true
  | .permute => true
  | .invert => true
  | .roundf ksel => decide (ksel.toNat ≤ 2)
  | .clear => true

end Sys2Proof
end

