-- ==== Sys2Proof/Decode.lean ====
section
/-! DEFINITION. Decoding a command word, total on all 2^64 words and rejecting by name, and the encoder
(30_encoding.md R90 to R95; spec/opcode_table.json). -/

namespace Sys2Proof

/-- Why a command word is illegal (30_encoding.md R94). The FPE records `ILLEGAL_CMD` for each alike; the names only say which
condition of R93 fails first, in the order in which `decode` looks (log 18). -/
inductive IllegalWord where
  /-- A bit of `RSV`, bits 63 to 6, is not 0. -/
  | reservedBits
  /-- `OP` is one of the reserved opcodes 0x8 to 0xF. -/
  | reservedOpcode
  /-- `KSEL` is not 0 with an opcode other than ROUNDF, or is 3 with ROUNDF. -/
  | keySelect
  deriving DecidableEq, Repr

/-- What a command word decodes to. -/
inductive Decoded where
  /-- A legal word: the command it stands for. -/
  | command (i : Instr)
  /-- An illegal word, with the condition that fails. -/
  | illegal (why : IllegalWord)
  deriving DecidableEq, Repr

/-- `OP`, bits 3:0 of a command word (30_encoding.md R90). -/
def opField (w : Word) : BitVec 4 := w.extractLsb' 0 4

/-- `KSEL`, bits 5:4 of a command word (30_encoding.md R90). -/
def kselField (w : Word) : BitVec 2 := w.extractLsb' 4 2

/-- `RSV`, bits 63:6 of a command word (30_encoding.md R90). -/
def rsvField (w : Word) : BitVec 58 := w.extractLsb' 6 58

/-- The command of an opcode that takes no `KSEL`, illegal unless `KSEL` is 0 (30_encoding.md R91, R93). -/
def withoutKsel (ksel : BitVec 2) (i : Instr) : Decoded :=
  if ksel = 0 then .command i else .illegal .keySelect

/-- ROUNDF with its `KSEL`, illegal when `KSEL` is 3 (30_encoding.md R91, R93). -/
def withKsel (ksel : BitVec 2) : Decoded :=
  if ksel.toNat ≤ 2 then .command (.roundf ksel) else .illegal .keySelect

/-- Decode the fields of a word whose reserved bits are 0, by the opcode map (30_encoding.md R92). -/
def decodeFields (op : BitVec 4) (ksel : BitVec 2) : Decoded :=
  match op.toNat with
  | 0x0 => withoutKsel ksel .nop
  | 0x1 => withoutKsel ksel .precompute
  | 0x2 => withoutKsel ksel .encode
  | 0x3 => withoutKsel ksel .decode
  | 0x4 => withoutKsel ksel .permute
  | 0x5 => withoutKsel ksel .invert
  | 0x6 => withKsel ksel
  | 0x7 => withoutKsel ksel .clear
  | _ => .illegal .reservedOpcode

/-- Decode a command word (30_encoding.md R90, R92 to R94). -/
def decode (w : Word) : Decoded :=
  if rsvField w = 0 then decodeFields (opField w) (kselField w) else .illegal .reservedBits

/-- The legality test in the form R93 gives it. -/
def legal (w : Word) : Bool :=
  decide (rsvField w = 0) && decide ((opField w).toNat ≤ 7) &&
    ((decide ((opField w).toNat = 6) && decide ((kselField w).toNat ≤ 2)) ||
      (decide ((opField w).toNat ≠ 6) && decide (kselField w = 0)))

/-- The opcode of a command (30_encoding.md R92). -/
def Instr.opcode : Instr → BitVec 4
  | .nop => 0x0
  | .precompute => 0x1
  | .encode => 0x2
  | .decode => 0x3
  | .permute => 0x4
  | .invert => 0x5
  | .roundf _ => 0x6
  | .clear => 0x7

/-- The `KSEL` field of a command's word: 0 for every command but ROUNDF (30_encoding.md R91). -/
def Instr.kselBits : Instr → BitVec 2
  | .nop => 0
  | .precompute => 0
  | .encode => 0
  | .decode => 0
  | .permute => 0
  | .invert => 0
  | .roundf ksel => ksel
  | .clear => 0

/-- The command word of a command: `RSV`, `KSEL`, `OP` from the top (30_encoding.md R90, R95). -/
def encode (i : Instr) : Word := 0#58 ++ i.kselBits ++ i.opcode

/-- The instruction the decoder reads from a row of spec/opcode_table.json whose `nbits` bits are `w`. A command word is one
64-bit word; there are no operand words and no byte order to lay out (20_memory.md R72; 30_encoding.md R90). -/
def decodeTableWord (nbits w : Nat) : Option Instr :=
  if w % 2 ^ nbits < 2 ^ 64 then
    match decode (BitVec.ofNat 64 (w % 2 ^ nbits)) with
    | .command i => some i
    | .illegal _ => none
  else none

end Sys2Proof
end

