-- ==== Sys2Proof/Machine/Event.lean ====
section
/-! DEFINITION. A host bus transaction, its response, and an event: one step of one agent (00_scope.md R10). -/

namespace Sys2Proof.Machine

/-- The inputs of one host bus transaction (20_memory.md R61; 30_encoding.md R97). `off` has 7 bits, so it is always inside the
128-byte window; `wdata` is used only when `we` is true. It has no access size, as R61 gives none: every transaction moves 64 bits,
and a narrower access, which R65 gives no meaning and D3 keeps off the bus, cannot be presented. DESIGN CHOICE: the error response
that 93_implementation_defined.md U14 has for it is left to the platform, outside the FPE (log 23). -/
structure BusTransaction where
  we : Bool
  off : BitVec 7
  wdata : Word
  deriving DecidableEq, Repr, Inhabited

/-- The outputs of one host bus transaction (20_memory.md R61). -/
structure BusResponse where
  rdata : Word
  err : Bool
  deriving DecidableEq, Repr, Inhabited

/-- One step of one agent (00_scope.md R10). An event whose agent has no enabled step changes nothing (log 2). -/
inductive Event where
  /-- The host's step: one bus transaction (20_memory.md R61). -/
  | host (t : BusTransaction)
  /-- The engine's step, with the level of the input `hreq_ready` in that step (44_control.md R240; log 6). -/
  | engine (hreqReady : Bool)
  /-- The collaborator's step: `hrsp_valid` is 1 in this step (41_round_function.md R150, R152, R163). -/
  | hashResponse
  /-- The environment's step: `rst` (70_reset_and_hazards.md R290). -/
  | reset
  deriving DecidableEq, Repr, Inhabited

end Sys2Proof.Machine
end

