-- ==== Sys2Proof/Config.lean ====
section
/-! DEFINITION. The parameters of the FPE (00_scope.md R4): those the spec leaves OPEN and the free order of the agents' steps
(R10), each a constant without a body, so that nothing can be proved of its value. -/

namespace Sys2Proof.Config

/-- `ROUNDS`, the Feistel rounds per application (00_scope.md R4, R6). -/
def rounds : Nat := 3

/-- `NKEYS`, the number of key registers (00_scope.md R4). -/
def nKeys : Nat := 3

/-- `HALF_MAX`, the largest `half_bits` (00_scope.md R4; 40_precompute.md R124). -/
def halfMax : Nat := 32

/-- The least `DIGEST_BYTES` that 00_scope.md R4 allows. -/
def minDigestBytes : Nat := 8

/-- One entry of `P_SEL`: a digest byte position and a byte lane, the shift being eight times the lane. Every shift that is a
multiple of 8 from 0 to 56 is a lane, so an entry is admissible by construction (41_round_function.md R158; log 4). -/
structure SelEntry where
  pos : Nat
  lane : Fin 8
  deriving DecidableEq, Repr, Inhabited

/-- FREE VALUE (log 3): byte `i` of `P_HASH(m)`, the opaque hash collaborator (00_scope.md R3(a), R4; D19). -/
opaque hashByte : Msg → Nat → Byte

/-- FREE VALUE (log 4): `P_SEL[j]`, the digest byte selection table (00_scope.md R4; 41_round_function.md R154, R158; D21). -/
opaque selTable : Fin 8 → SelEntry

/-- FREE VALUE (log 4): by how many bytes `DIGEST_BYTES` exceeds the least length that R4 and R159 allow (D20). -/
opaque digestExtra : Nat

/-- FREE VALUE (log 5): `P_BASE`, the base address of the register window on the host bus (00_scope.md R4; D30). -/
opaque windowBase : Nat

/-- FREE VALUE (log 1): which agent steps next, and with which inputs, where the state's list of coming events is empty
("Any enabled agent may step next", 00_scope.md R10). It is applied to a counter of the state, so that each use is fresh. -/
opaque schedule : Nat → Machine.Event

end Sys2Proof.Config
end

