-- ==== Sys2Proof/Machine/State.lean ====
section
/-! DEFINITION. The state of one FPE (10_state.md R20 to R51), the model's own fields beside it, and the machine right after
reset (10_state.md R51; 70_reset_and_hazards.md R290). -/

namespace Sys2Proof.Machine

/-- Model faults. There is none: every error of the FPE is defined behaviour, recorded in `STATUS`, and a next state
(60_exceptions.md R250; D39; log 13). -/
inductive Fault where
  deriving DecidableEq, Repr

/-- Model refusals. -/
inductive Refusal where
  /-- Raised by an arm of `exec` for an instruction that has no meaning yet; safe. No arm of this model raises it. -/
  | notModelled (mnemonic : String)
  deriving DecidableEq, Repr

/-- The error codes of 60_exceptions.md R251. -/
inductive ErrorKind where
  /-- Code 1: the word written to `CMD` is not legal. -/
  | illegalCmd
  /-- Code 2: PRECOMPUTE with `N = 0`. -/
  | nZero
  /-- Code 3: `PRE_VALID = 0`. -/
  | notPrecomputed
  /-- Code 4: a key the command uses has not been written since reset. -/
  | keysMissing
  /-- Code 5: `INDEX >= N`. -/
  | indexRange
  /-- Code 6: the walk reached its cap outside `[0, N)`. -/
  | walkLimit
  deriving DecidableEq, Repr

/-- The phase `PH` (10_state.md R40). -/
inductive Phase where
  /-- No command runs. -/
  | idle
  /-- The precompute step is enabled. -/
  | pre
  /-- The split of an application is enabled. -/
  | setup
  /-- The issue of a round's hash request is enabled. -/
  | hreq
  /-- The completion of a round is enabled when the response is there. -/
  | hwait
  /-- The cycle-walk decision is enabled. -/
  | check
  deriving DecidableEq, Repr

/-- The opcode held in `OP` (10_state.md R41), one of the opcodes of 30_encoding.md R92 (log 10). -/
inductive Opcode where
  | nop
  | precompute
  | encode
  | decode
  | permute
  | invert
  | roundf
  | clear
  deriving DecidableEq, Repr

/-- The hash port state `HP` (10_state.md R47). -/
inductive HashPort where
  /-- No request is outstanding. -/
  | empty
  /-- The message was issued and no response has come. -/
  | pending (m : Msg)
  /-- The digest has come and the engine has not consumed it. -/
  | ready (d : Digest)
  deriving DecidableEq, Repr

/-- The fields of `STATUS` (10_state.md R26); bits 63:12 are hardwired 0 and held nowhere (log 9). -/
structure Status where
  busy : Bool
  done : Bool
  err : Bool
  rej : Bool
  preValid : Bool
  kv0 : Bool
  kv1 : Bool
  kv2 : Bool
  errCode : BitVec 4
  deriving DecidableEq, Repr

/-- `STATUS` after reset, all fields 0 (10_state.md R26). -/
def Status.reset : Status where
  busy := false
  done := false
  err := false
  rej := false
  preValid := false
  kv0 := false
  kv1 := false
  kv2 := false
  errCode := 0

/-- The state of one FPE. The first group are the host-visible registers (10_state.md R21) except `ID`, a constant (R24), and
`CMD`, which holds no state (R25); the second the hidden registers (R40 to R47); the third the model's own fields. -/
structure State where
  /-- `STATUS`, R26. -/
  status : Status
  /-- `CFG.IE`, bit 0 of `CFG`, R34; the other bits read as 0 and hold nothing (log 9). -/
  ie : Bool
  /-- `N`, R35. -/
  n : Word
  /-- `INDEX`, R36. -/
  index : Word
  /-- `RESULT`, R37. -/
  result : Word
  /-- `KEY0`, R38. -/
  key0 : Word
  /-- `KEY1`, R38. -/
  key1 : Word
  /-- `KEY2`, R38. -/
  key2 : Word
  /-- `LMASK`, R39. -/
  lmask : Word
  /-- `RMASK`, R39. -/
  rmask : Word
  /-- `HBITS[5:0]`, R39; bits 63:6 are 0 and hold nothing (log 9). -/
  hbits : BitVec 6
  /-- `WLIMIT`, R48. -/
  wlimit : Word
  /-- `WCOUNT`, R49. -/
  wcount : Word
  /-- `PH`, R40. -/
  ph : Phase
  /-- `OP`, R41. -/
  op : Opcode
  /-- `RND`, R42: values 0 to 2 (log 10). -/
  rnd : Fin 3
  /-- `WL`, R43. -/
  wl : Half
  /-- `WR`, R44. -/
  wr : Half
  /-- `U`, R45. -/
  u : Word
  /-- `WC`, R46. -/
  wc : Word
  /-- `HP`, R47. -/
  hp : HashPort
  /-- Model's own: the coming steps of the agents, next one first (log 1). -/
  inputs : List Event
  /-- Model's own: how often `Config.schedule` has been used (log 1). -/
  turn : Nat
  /-- Model's own: the outputs of the bus transaction of the last step, none if that step was not the host's (log 7). -/
  resp : Option BusResponse
  /-- Model's own: the ghost log of every `raise`, newest first; no step clears it (60_exceptions.md R250; D39; log 8). -/
  raised : List ErrorKind
  /-- Model's own: the ghost log of every message transferred on the hash port, newest first; no step clears it (log 8). -/
  sent : List Msg
  deriving DecidableEq, Repr

/-- The machine right after reset (10_state.md R51; 70_reset_and_hazards.md R290). The last five lines are the model's own
fields, whose values no spec rule gives (DESIGN CHOICE; log 1, 7, 8). -/
def State.reset : State where
  status := Status.reset
  ie := false
  n := 0
  index := 0
  result := 0
  key0 := 0
  key1 := 0
  key2 := 0
  lmask := 0
  rmask := 0
  hbits := 0
  wlimit := 0
  wcount := 0
  ph := .idle
  op := .nop
  rnd := 0
  wl := 0
  wr := 0
  u := 0
  wc := 0
  hp := .empty
  inputs := []
  turn := 0
  resp := none
  raised := []
  sent := []

end Sys2Proof.Machine
end

