-- ==== Sys2Proof/Machine/HashPort.lean ====
section
/-! DEFINITION. The hash port as a function: the message layout, the digest, its reduction, the wires, and the round function
`F` (41_round_function.md R150 to R163). -/

namespace Sys2Proof.Machine

open Config (SelEntry)

/-- `BE8(v)[i]`, byte `i` of the big-endian serialization of `v` (00_scope.md R7). -/
def be8 (v : Word) (i : Nat) : Byte := v.extractLsb' (56 - 8 * i) 8

/-- Serialize `v` big-endian over bytes 0 to 7 of a message buffer (41_round_function.md R151). -/
def msgWrite (buf : Msg) (v : Word) : Msg :=
  Vector.ofFn fun i => if i.val < 8 then be8 v i.val else buf[i]

/-- `Msg(v, key)`: the value is written first and the key over it, in the same eight bytes (41_round_function.md R151;
C5, C6). -/
def msg (v key : Word) : Msg := msgWrite (msgWrite (Vector.replicate 16 0) v) key

/-- One more than the largest position of a selection table (41_round_function.md R159). -/
def selSpan (sel : Fin 8 → SelEntry) : Nat :=
  (List.finRange 8).foldl (fun m j => max m (1 + (sel j).pos)) 0

/-- `DIGEST_BYTES`: at least 8 (00_scope.md R4) and at least `1 + max_j P_SEL[j].pos` (41_round_function.md R159), otherwise
free (log 4). -/
def digestBytes : Nat := max Config.minDigestBytes (selSpan Config.selTable) + Config.digestExtra

/-- `P_HASH(m)`, a total function from messages to digests of `DIGEST_BYTES` bytes (41_round_function.md R152; log 3). -/
def digestOf (m : Msg) : Digest := (List.range digestBytes).map (Config.hashByte m)

/-- The default `P_SEL`: position `j`, shift `56 - 8j` (41_round_function.md R158). -/
def defaultSel (j : Fin 8) : SelEntry := { pos := j.val, lane := ⟨7 - j.val, by omega⟩ }

/-- The byte that one entry of `P_SEL` selects, shifted to its lane (41_round_function.md R154). A position beyond the digest
reads 0; a digest of the collaborator has none such (log 20). -/
def selByte (e : SelEntry) (d : Digest) : Word :=
  ((d.getD e.pos 0).setWidth 64) <<< (8 * e.lane.val)

/-- `Reduce(d)` with a given selection table: the OR of the eight selected bytes (41_round_function.md R154). -/
def reduceWith (sel : Fin 8 → SelEntry) (d : Digest) : Word :=
  (List.finRange 8).foldl (fun acc j => acc ||| selByte (sel j) d) 0

/-- `Reduce(d)` with the parameter `P_SEL` (41_round_function.md R154). -/
def reduce (d : Digest) : Word := reduceWith Config.selTable d

/-- `F(v, key, mask)`, the round function (41_round_function.md R160). -/
def roundF (v key mask : Word) : Word := reduce (digestOf (msg v key)) &&& mask

/-- `G(key)`, the key digest (41_round_function.md R161). -/
def keyDigest (key : Word) : Word := reduce (digestOf (msgWrite (Vector.replicate 16 0) key))

/-- `hreq_msg[127:0]`: byte 0 in the most significant byte lane (41_round_function.md R155). -/
def msgWires (m : Msg) : BitVec 128 :=
  m.toList.foldl (fun acc b => (acc <<< 8) ||| b.setWidth 128) 0

/-- The digest that the wires `hrsp_digest[8*DIGEST_BYTES-1:0]` carry: byte 0 in the most significant byte lane
(41_round_function.md R155). -/
def digestOfWires (x : BitVec (8 * digestBytes)) : Digest :=
  (List.range digestBytes).map fun i => x.extractLsb' (8 * (digestBytes - 1 - i)) 8

end Sys2Proof.Machine
end

