-- ==== Sys2Proof/Machine/Operands.lean ====
section
/-! DEFINITION. The operand forms of the commands: key selection, the halves of a value, the hash operand of a round, and the
domain triple (30_encoding.md R91, R96; 40_precompute.md R122; 42_feistel_apply.md R170 to R178). -/

namespace Sys2Proof.Machine

/-- The key register that a `KSEL` selects; `KSEL = 3` selects none (30_encoding.md R91). -/
def keyIndex? (ksel : BitVec 2) : Option (Fin 3) :=
  if h : ksel.toNat < 3 then some ⟨ksel.toNat, h⟩ else none

/-- `KEY[k]` (10_state.md R38, R50). -/
def State.key (s : State) (k : Fin 3) : Word :=
  match k with
  | 0 => s.key0
  | 1 => s.key1
  | 2 => s.key2

/-- The loop of the reference algorithm on exact numbers, at most `fuel` times (40_precompute.md R122). -/
def halfBitsLoop (n p h : Nat) : (fuel : Nat) → Nat
  | 0 => h
  | fuel + 1 => if p < n then halfBitsLoop n (p * 4) (h + 1) fuel else h

/-- `half_bits_of(n)`: the smallest positive `h` with `4^h >= n`, "computed exactly": `4^h` is a mathematical value here, so
that `n > 2^62` gives 32 (40_precompute.md R122, R125; C2). -/
def halfBits (n : Word) : Nat := halfBitsLoop n.toNat 4 1 (Config.halfMax - 1)

/-- `right_mask` for a half width (40_precompute.md R121). -/
def rightMask (h : Nat) : Word := (1#64 <<< h) - 1#64

/-- `left_mask` for a half width (40_precompute.md R121). -/
def leftMask (h : Nat) : Word := rightMask h <<< h

/-- What an application reads: the Precomputed triple and the key schedule (30_encoding.md R96; 42_feistel_apply.md R176). -/
structure Network where
  h : Nat
  lmask : Word
  rmask : Word
  key0 : Word
  key1 : Word
  key2 : Word
  deriving DecidableEq, Repr

/-- The network that the registers of a state hold (42_feistel_apply.md, "Throughout, `h = HBITS[5:0]`"). -/
def State.network (s : State) : Network where
  h := s.hbits.toNat
  lmask := s.lmask
  rmask := s.rmask
  key0 := s.key0
  key1 := s.key1
  key2 := s.key2

/-- The left half of `split(x)`, truncated to 32 bits (42_feistel_apply.md R170, R171). -/
def Network.leftHalf (p : Network) (x : Word) : Half := ((x &&& p.lmask) >>> p.h).setWidth 32

/-- The right half of `split(x)`, truncated to 32 bits (42_feistel_apply.md R170, R171). -/
def Network.rightHalf (p : Network) (x : Word) : Half := (x &&& p.rmask).setWidth 32

/-- `split(x)` (42_feistel_apply.md R170). -/
def Network.split (p : Network) (x : Word) : Half × Half := (p.leftHalf x, p.rightHalf x)

/-- `(left << half_bits) | right` on 64 bits (42_feistel_apply.md R175). -/
def Network.join (p : Network) (lr : Half × Half) : Word :=
  (lr.1.setWidth 64 <<< p.h) ||| lr.2.setWidth 64

/-- The combine and swap of a forward round with a round value `f` (42_feistel_apply.md R172). `f` is below `2^32` in every
run, so truncating it loses nothing (log 19). -/
def combineFwd (lr : Half × Half) (f : Word) : Half × Half := (lr.2, lr.1 ^^^ f.setWidth 32)

/-- The combine and swap of a backward round with a round value `f` (42_feistel_apply.md R174; log 19). -/
def combineBwd (lr : Half × Half) (f : Word) : Half × Half := (lr.2 ^^^ f.setWidth 32, lr.1)

/-- `round_fwd_k(L, R)` (42_feistel_apply.md R173). -/
def Network.roundFwd (p : Network) (key : Word) (lr : Half × Half) : Half × Half :=
  combineFwd lr (roundF (lr.2.setWidth 64) key p.rmask)

/-- `round_bwd_k(L, R)` (42_feistel_apply.md R174). -/
def Network.roundBwd (p : Network) (key : Word) (lr : Half × Half) : Half × Half :=
  combineBwd lr (roundF (lr.1.setWidth 64) key p.rmask)

/-- `encode(x)`: split, three forward rounds with keys 0, 1, 2, recombine (42_feistel_apply.md R178). -/
def Network.encode (p : Network) (x : Word) : Word :=
  p.join (p.roundFwd p.key2 (p.roundFwd p.key1 (p.roundFwd p.key0 (p.split x))))

/-- `decode(x)`: split, three backward rounds with keys 2, 1, 0, recombine (42_feistel_apply.md R178). -/
def Network.decode (p : Network) (x : Word) : Word :=
  p.join (p.roundBwd p.key0 (p.roundBwd p.key1 (p.roundBwd p.key2 (p.split x))))

/-- Whether an opcode runs its rounds forward (42_feistel_apply.md R171; 41_round_function.md R153; log 14). -/
def Opcode.forward : Opcode → Bool
  | .encode => true
  | .permute => true
  | .nop => false
  | .precompute => false
  | .decode => false
  | .invert => false
  | .roundf => false
  | .clear => false

/-- Whether the rounds of an opcode run backward (42_feistel_apply.md R174; 41_round_function.md R153; log 14). -/
def Opcode.backward : Opcode → Bool
  | .decode => true
  | .invert => true
  | .nop => false
  | .precompute => false
  | .encode => false
  | .permute => false
  | .roundf => false
  | .clear => false

/-- The value operand `v` of a round's hash request: the right half forward, the left half backward, `INDEX & RMASK` for
ROUNDF (41_round_function.md R153). -/
def State.hashOperand (s : State) : Word :=
  if s.op.forward then s.wr.setWidth 64
  else if s.op.backward then s.wl.setWidth 64
  else s.index &&& s.rmask

/-- The message of the request that the engine offers in phase `HREQ` (41_round_function.md R153). -/
def State.request (s : State) : Msg := msg s.hashOperand (s.key s.rnd)

end Sys2Proof.Machine
end

