-- ==== Sys2Proof/Machine/Flags.lean ====
section
/-! DEFINITION. The `STATUS` word, the error codes, key validity and the outputs that are functions of the registers
(10_state.md R26; 60_exceptions.md R251, R260; 41_round_function.md R150). -/

namespace Sys2Proof.Machine

/-- `code(E)` (60_exceptions.md R251). -/
def ErrorKind.code : ErrorKind → BitVec 4
  | .illegalCmd => 1
  | .nZero => 2
  | .notPrecomputed => 3
  | .keysMissing => 4
  | .indexRange => 5
  | .walkLimit => 6

/-- `STATUS` as the host reads it: the fields at their bits, bits 63:12 zero (10_state.md R26). -/
def Status.word (f : Status) : Word :=
  0#52 ++ f.errCode ++ BitVec.ofBool f.kv2 ++ BitVec.ofBool f.kv1 ++ BitVec.ofBool f.kv0 ++ BitVec.ofBool f.preValid ++
    BitVec.ofBool f.rej ++ BitVec.ofBool f.err ++ BitVec.ofBool f.done ++ BitVec.ofBool f.busy

/-- `CFG` as the host reads it: bits 63:1 zero (10_state.md R34). -/
def State.cfgWord (s : State) : Word := 0#63 ++ BitVec.ofBool s.ie

/-- `STATUS.KV[k]` (10_state.md R26). -/
def Status.keyValid (f : Status) (k : Fin 3) : Bool :=
  match k with
  | 0 => f.kv0
  | 1 => f.kv1
  | 2 => f.kv2

/-- `KV0 and KV1 and KV2` (42_feistel_apply.md R176). -/
def Status.allKeys (f : Status) : Bool := f.kv0 && f.kv1 && f.kv2

/-- The level of the interrupt output (60_exceptions.md R260). -/
def State.irq (s : State) : Bool := s.ie && (s.status.done || s.status.err)

/-- The output `hreq_valid`: a request is offered while the engine waits to issue one (41_round_function.md R150, R153;
log 11). -/
def State.hreqValid (s : State) : Bool := decide (s.ph = .hreq) && decide (s.hp = .empty)

/-- The output `hreq_msg` while `hreq_valid` is 1 (41_round_function.md R153, R155; log 11). -/
def State.hreqMsg (s : State) : BitVec 128 := msgWires s.request

end Sys2Proof.Machine
end

