-- ==== Sys2Proof/Machine/Ops.lean ====
section
/-! DEFINITION. The shared operations on the state: starting and finishing a command, entering and leaving an error, dropping
a command word, the accept checks, reset, and the order of events (44_control.md R230 to R239; 60_exceptions.md R252, R253;
70_reset_and_hazards.md R290). -/

namespace Sys2Proof.Machine

/-- `STATUS.REJ <- 1`: a bus write or a command word is dropped (20_memory.md R67; 44_control.md R231, R232). -/
def State.reject (s : State) : State := { s with status.rej := true }

/-- `raise E`, the error entry; the ghost log records it (60_exceptions.md R252, R250; log 8). -/
def State.raise (e : ErrorKind) (s : State) : State :=
  { s with
    status.err := true
    status.errCode := e.code
    status.done := false
    status.busy := false
    ph := .idle
    raised := e :: s.raised }

/-- `Clear()`, the return from an error: it restores nothing because the error saved nothing (44_control.md R239;
60_exceptions.md R253). -/
def State.clear (s : State) : State :=
  { s with
    status.done := false
    status.err := false
    status.errCode := 0
    status.rej := false }

/-- `start` of a command: `OP`, the first phase, `BUSY` and `DONE` (44_control.md R233). -/
def State.start (op : Opcode) (first : Phase) (s : State) : State :=
  { s with
    status.done := false
    status.busy := true
    op := op
    ph := first }

/-- `finish()` (44_control.md R236). -/
def State.finish (s : State) : State :=
  { s with
    status.busy := false
    status.done := true
    ph := .idle }

/-- Accept of a word that is neither NOP nor CLEAR: dropped while busy or while `ERR = 1`, else `act` (44_control.md R230 to
R232, R234). -/
def acceptUnlessErr (act : State → State) (s : State) : State :=
  if s.status.busy then s.reject
  else if s.status.err then s.reject
  else act s

/-- Accept of NOP or CLEAR: dropped while busy, else acted on whether `ERR` is 0 or 1 (44_control.md R230 to R232). -/
def acceptAlways (act : State → State) (s : State) : State :=
  if s.status.busy then s.reject else act s

/-- Accept of an illegal word (44_control.md R230; 30_encoding.md R94). -/
def acceptIllegal (s : State) : State := acceptUnlessErr (State.raise .illegalCmd) s

/-- Start of one application of `INDEX`, or of a walk from it: the initialisation common to ENCODE, DECODE, PERMUTE and INVERT
(42_feistel_apply.md R176, R177; 43_cycle_walk.md R200, R201). -/
def State.startFromIndex (op : Opcode) (s : State) : State :=
  { s.start op .setup with u := s.index, wc := 0 }

/-- The accept checks and start of ENCODE and DECODE (42_feistel_apply.md R176; 44_control.md R234). -/
def beginApplication (op : Opcode) (s : State) : State :=
  if !s.status.preValid then s.raise .notPrecomputed
  else if !s.status.allKeys then s.raise .keysMissing
  else s.startFromIndex op

/-- The accept checks and start of PERMUTE and INVERT (43_cycle_walk.md R200; 44_control.md R234). -/
def beginWalk (op : Opcode) (s : State) : State :=
  if !s.status.preValid then s.raise .notPrecomputed
  else if !s.status.allKeys then s.raise .keysMissing
  else if s.n ≤ s.index then s.raise .indexRange
  else s.startFromIndex op

/-- The accept check and start of PRECOMPUTE (40_precompute.md R120). -/
def beginPrecompute (s : State) : State :=
  if s.n = 0 then s.raise .nZero else s.start .precompute .pre

/-- The accept checks and start of ROUNDF with a legal key select (41_round_function.md R157). -/
def beginRoundf (k : Fin 3) (s : State) : State :=
  if !s.status.preValid then s.raise .notPrecomputed
  else if !s.status.keyValid k then s.raise .keysMissing
  else { s.start .roundf .hreq with rnd := k }

/-- Reset: every register takes its reset value; the model's own fields, the ghost logs among them, are kept
(70_reset_and_hazards.md R290, R291; 60_exceptions.md R250; log 8). -/
def State.hardReset (s : State) : State :=
  { State.reset with
    inputs := s.inputs
    turn := s.turn
    resp := s.resp
    raised := s.raised
    sent := s.sent }

/-- The next step of an agent: the first of the coming events, or a free one where none is listed (00_scope.md R10; log 1). -/
def State.nextEvent (s : State) : Event :=
  match s.inputs with
  | [] => Config.schedule s.turn
  | e :: _ => e

/-- The state in which the next event takes place: the event taken off the list (or the free value used up), and no bus
transaction answered yet (log 1, 7). -/
def State.advance (s : State) : State :=
  match s.inputs with
  | [] => { s with turn := s.turn + 1, resp := none }
  | _ :: rest => { s with inputs := rest, resp := none }

/-- The outputs of the bus transaction of this step (20_memory.md R61; log 7). -/
def State.respond (s : State) (r : BusResponse) : State := { s with resp := some r }

/-- The response to a write that is not refused by the bus (20_memory.md R63). -/
def writeOk : BusResponse := { rdata := 0, err := false }

/-- The error response (20_memory.md R64). -/
def busError : BusResponse := { rdata := 0, err := true }

end Sys2Proof.Machine
end

