-- ==== Sys2Proof/Machine/Control.lean ====
section
/-! DEFINITION. The control commands NOP and CLEAR (44_control.md R237, R239). -/

namespace Sys2Proof.Machine

/-- NOP: no effect, whether `ERR` is 0 or 1; dropped while busy (44_control.md R237). -/
def execNop (s : State) : Host.Outcome State Fault Refusal := .next (acceptAlways id s)

/-- CLEAR: `Clear()`, whether `ERR` is 0 or 1; dropped while busy (44_control.md R239). -/
def execClear (s : State) : Host.Outcome State Fault Refusal := .next (acceptAlways State.clear s)

end Sys2Proof.Machine
end

