-- ==== Sys2Proof/Machine/CycleWalk.lean ====
section
/-! DEFINITION. The cycle-walk controller: PERMUTE and INVERT at accept and the decision after an application
(43_cycle_walk.md R200 to R212). -/

namespace Sys2Proof.Machine

/-- PERMUTE at accept (43_cycle_walk.md R200). -/
def execPermute (s : State) : Host.Outcome State Fault Refusal :=
  .next (acceptUnlessErr (beginWalk .permute) s)

/-- INVERT at accept (43_cycle_walk.md R201). -/
def execInvert (s : State) : Host.Outcome State Fault Refusal :=
  .next (acceptUnlessErr (beginWalk .invert) s)

/-- Whether an opcode is a single application, whose result is not folded (43_cycle_walk.md R203). -/
def Opcode.single : Opcode → Bool
  | .encode => true
  | .decode => true
  | .nop => false
  | .precompute => false
  | .permute => false
  | .invert => false
  | .roundf => false
  | .clear => false

/-- The engine step in phase `CHECK` (43_cycle_walk.md R203). -/
def checkStep (s : State) : State :=
  if s.op.single then State.finish { s with result := s.u, wcount := s.wc }
  else if s.u < s.n then State.finish { s with result := s.u, wcount := s.wc }
  else if s.wlimit ≠ 0 ∧ s.wlimit ≤ s.wc then State.raise .walkLimit { s with wcount := s.wc }
  else { s with ph := .setup }

end Sys2Proof.Machine
end

