-- ==== Sys2Proof/Machine/RoundFunction.lean ====
section
/-! DEFINITION. The round function driver: ROUNDF at accept, the request step, the collaborator's step, and the completion of
ROUNDF (41_round_function.md R150 to R163). -/

namespace Sys2Proof.Machine

/-- ROUNDF at accept (41_round_function.md R157). `KSEL = 3` is an illegal word (30_encoding.md R94; log 21). -/
def execRoundf (ksel : BitVec 2) (s : State) : Host.Outcome State Fault Refusal :=
  match keyIndex? ksel with
  | some k => .next (acceptUnlessErr (beginRoundf k) s)
  | none => .next (acceptIllegal s)

/-- The engine step in phase `HREQ`, enabled when `HP = EMPTY` and `hreq_ready = 1` (41_round_function.md R153). -/
def requestStep (hreqReady : Bool) (s : State) : State :=
  match s.hp, hreqReady with
  | .empty, true => { s with hp := .pending s.request, ph := .hwait, sent := s.request :: s.sent }
  | .empty, false => s
  | .pending _, _ => s
  | .ready _, _ => s

/-- The collaborator's step: a pending request is answered with `P_HASH(m)`; a response with none pending is ignored
(41_round_function.md R152, R163; log 22). -/
def hashStep (s : State) : State :=
  match s.hp with
  | .pending m => { s with hp := .ready (digestOf m) }
  | .empty => s
  | .ready _ => s

/-- Whether the collaborator's step is enabled: a request is pending (41_round_function.md R152). -/
def hashEnabled (s : State) : Bool :=
  match s.hp with
  | .pending _ => true
  | .empty => false
  | .ready _ => false

/-- The completion of ROUNDF with the masked round value `f` (41_round_function.md R154, R157). -/
def finishRoundf (f : Word) (s : State) : State :=
  State.finish { s with result := f, hp := .empty }

end Sys2Proof.Machine
end

