-- ==== Sys2Proof/Machine/Feistel.lean ====
section
/-! DEFINITION. The Feistel datapath: ENCODE and DECODE at accept, the split, the completion of a round, the recombination
(42_feistel_apply.md R170 to R182). -/

namespace Sys2Proof.Machine

/-- ENCODE at accept (42_feistel_apply.md R176). -/
def execEncode (s : State) : Host.Outcome State Fault Refusal :=
  .next (acceptUnlessErr (beginApplication .encode) s)

/-- DECODE at accept (42_feistel_apply.md R177). -/
def execDecode (s : State) : Host.Outcome State Fault Refusal :=
  .next (acceptUnlessErr (beginApplication .decode) s)

/-- The engine step in phase `SETUP`: one application of the value in `U` starts (42_feistel_apply.md R171). -/
def setupStep (s : State) : State :=
  { s with
    wl := s.network.leftHalf s.u
    wr := s.network.rightHalf s.u
    rnd := if s.op.forward then 0 else 2
    ph := .hreq }

/-- `recombine()`, the end of an application (42_feistel_apply.md R175). -/
def recombine (s : State) : State :=
  { s with
    u := s.network.join (s.wl, s.wr)
    wc := s.wc + 1
    ph := .check }

/-- A forward round completes with the round value `f` (42_feistel_apply.md R172). -/
def forwardRound (f : Word) (s : State) : State :=
  let lr := combineFwd (s.wl, s.wr) f
  let s' := { s with wl := lr.1, wr := lr.2, hp := .empty }
  if s.rnd = 2 then recombine s' else { s' with rnd := s.rnd + 1, ph := .hreq }

/-- A backward round completes with the round value `f` (42_feistel_apply.md R174). -/
def backwardRound (f : Word) (s : State) : State :=
  let lr := combineBwd (s.wl, s.wr) f
  let s' := { s with wl := lr.1, wr := lr.2, hp := .empty }
  if s.rnd = 0 then recombine s' else { s' with rnd := s.rnd - 1, ph := .hreq }

/-- What the engine does with the reduced digest `r`: mask it, and finish ROUNDF or complete the round
(41_round_function.md R154; log 14). -/
def completeRound (r : Word) (s : State) : State :=
  if s.op = .roundf then finishRoundf (r &&& s.rmask) s
  else if s.op.forward then forwardRound (r &&& s.rmask) s
  else backwardRound (r &&& s.rmask) s

/-- The engine step in phase `HWAIT`, enabled when `HP = READY(d)` (41_round_function.md R154). -/
def responseStep (s : State) : State :=
  match s.hp with
  | .ready d => completeRound (reduce d) s
  | .empty => s
  | .pending _ => s

end Sys2Proof.Machine
end

