-- ==== Sys2Proof/Machine/Precompute.lean ====
section
/-! DEFINITION. PRECOMPUTE: its accept step and its engine step (40_precompute.md R120 to R128). -/

namespace Sys2Proof.Machine

/-- PRECOMPUTE at accept (40_precompute.md R120). -/
def execPrecompute (s : State) : Host.Outcome State Fault Refusal :=
  .next (acceptUnlessErr beginPrecompute s)

/-- The engine step in phase `PRE` (40_precompute.md R121). -/
def precomputeStep (s : State) : State :=
  State.finish
    { s with
      rmask := rightMask (halfBits s.n)
      lmask := leftMask (halfBits s.n)
      hbits := BitVec.ofNat 6 (halfBits s.n)
      status.preValid := true }

end Sys2Proof.Machine
end

