-- ==== Sys2Proof/Machine/Dispatch.lean ====
section
/-! DEFINITION. The meaning of every command: its accept step (44_control.md R230). -/

namespace Sys2Proof.Machine

-- The accept step of a legal command word, one arm per row of spec/opcode_table.json.
def exec (i : Instr) (s : State) : Host.Outcome State Fault Refusal :=
  match i with
  | .nop => Sys2Proof.Machine.execNop s
  | .precompute => Sys2Proof.Machine.execPrecompute s
  | .encode => Sys2Proof.Machine.execEncode s
  | .decode => Sys2Proof.Machine.execDecode s
  | .permute => Sys2Proof.Machine.execPermute s
  | .invert => Sys2Proof.Machine.execInvert s
  | .roundf ksel => Sys2Proof.Machine.execRoundf ksel s
  | .clear => Sys2Proof.Machine.execClear s

end Sys2Proof.Machine
end

