-- ==== Sys2Proof/Machine/Engine.lean ====
section
/-! DEFINITION. The engine: the one step its phase enables (10_state.md R40; 44_control.md R240). -/

namespace Sys2Proof.Machine

/-- One engine step, by the phase; nothing where no engine step is enabled (44_control.md R240; log 2). -/
def engineStep (hreqReady : Bool) (s : State) : State :=
  match s.ph with
  | .idle => s
  | .pre => precomputeStep s
  | .setup => setupStep s
  | .hreq => requestStep hreqReady s
  | .hwait => responseStep s
  | .check => checkStep s

/-- Whether an engine step is enabled (44_control.md R240). -/
def engineEnabled (hreqReady : Bool) (s : State) : Bool :=
  match s.ph, s.hp with
  | .idle, _ => false
  | .pre, _ => true
  | .setup, _ => true
  | .hreq, .empty => hreqReady
  | .hreq, .pending _ => false
  | .hreq, .ready _ => false
  | .hwait, .ready _ => true
  | .hwait, .empty => false
  | .hwait, .pending _ => false
  | .check, _ => true

end Sys2Proof.Machine
end

