-- ==== Sys2Proof/Machine/Bus.lean ====
section
/-! DEFINITION. The host register interface: the register map, reads, writes, the accept of a command word, and the step of each
agent (10_state.md R21 to R25; 20_memory.md R60 to R74; 44_control.md R230). -/

namespace Sys2Proof.Machine

/-- The fifteen host-visible registers (10_state.md R21). -/
inductive Reg where
  | id
  | cmd
  | status
  | cfg
  | n
  | index
  | result
  | key0
  | key1
  | key2
  | lmask
  | rmask
  | hbits
  | wlimit
  | wcount
  deriving DecidableEq, Repr

/-- The offset of a register from `P_BASE` (10_state.md R21). -/
def Reg.offset : Reg → BitVec 7
  | .id => 0x00
  | .cmd => 0x08
  | .status => 0x10
  | .cfg => 0x18
  | .n => 0x20
  | .index => 0x28
  | .result => 0x30
  | .key0 => 0x38
  | .key1 => 0x40
  | .key2 => 0x48
  | .lmask => 0x50
  | .rmask => 0x58
  | .hbits => 0x60
  | .wlimit => 0x68
  | .wcount => 0x70

/-- The register at an offset; none where the offset is not a multiple of 8 or is 0x78 or above (10_state.md R21; 20_memory.md
R64). -/
def regAt (off : BitVec 7) : Option Reg :=
  match off.toNat with
  | 0x00 => some .id
  | 0x08 => some .cmd
  | 0x10 => some .status
  | 0x18 => some .cfg
  | 0x20 => some .n
  | 0x28 => some .index
  | 0x30 => some .result
  | 0x38 => some .key0
  | 0x40 => some .key1
  | 0x48 => some .key2
  | 0x50 => some .lmask
  | 0x58 => some .rmask
  | 0x60 => some .hbits
  | 0x68 => some .wlimit
  | 0x70 => some .wcount
  | _ => none

/-- The address of a register on the host bus, where the platform adds offsets to `P_BASE` (20_memory.md R60, R61, R75; log 5). -/
def Reg.busAddress (r : Reg) : Nat := Config.windowBase + r.offset.toNat

/-- The value of `ID` for a digest length: "FEST", revision 1, the length modulo 256, `NKEYS`, `ROUNDS` (10_state.md R24). -/
def idWord (nbytes : Nat) : Word :=
  0x46455354#32 ++ 1#8 ++ BitVec.ofNat 8 nbytes ++ BitVec.ofNat 8 Config.nKeys ++ BitVec.ofNat 8 Config.rounds

/-- `P_ID` (00_scope.md R4; 10_state.md R24). -/
def idValue : Word := idWord digestBytes

/-- The value a register reads as (10_state.md R21 to R26, R34, R39; 20_memory.md R62). -/
def readReg (r : Reg) (s : State) : Word :=
  match r with
  | .id => idValue
  | .cmd => 0
  | .status => s.status.word
  | .cfg => s.cfgWord
  | .n => s.n
  | .index => s.index
  | .result => s.result
  | .key0 => s.key0
  | .key1 => s.key1
  | .key2 => s.key2
  | .lmask => s.lmask
  | .rmask => s.rmask
  | .hbits => s.hbits.setWidth 64
  | .wlimit => s.wlimit
  | .wcount => s.wcount

/-- `BusRead(off)`: the outputs of a read, which changes no register (20_memory.md R62, R64). -/
def busRead (off : BitVec 7) (s : State) : BusResponse :=
  match regAt off with
  | some r => { rdata := readReg r s, err := false }
  | none => busError

/-- `Accept(w)` (44_control.md R230). A legal word is its command; an illegal one is `ILLEGAL_CMD` or dropped. -/
def acceptWord (w : Word) (s : State) : Host.Outcome State Fault Refusal :=
  match decode w with
  | .command i => exec i s
  | .illegal _ => .next (acceptIllegal s)

/-- A write to an operand register: dropped while busy (20_memory.md R67). -/
def writeWhenIdle (write : State → State) (s : State) : State :=
  if s.status.busy then s.reject else write s

/-- The effect of a write to the register `r` (20_memory.md R63, R66 to R71). -/
def writeReg (r : Reg) (v : Word) (s : State) : Host.Outcome State Fault Refusal :=
  match r with
  | .id => .next s
  | .status => .next s
  | .result => .next s
  | .lmask => .next s
  | .rmask => .next s
  | .hbits => .next s
  | .wcount => .next s
  | .cfg => .next { s with ie := v.getLsbD 0 }
  | .cmd => acceptWord v s
  | .n => .next (writeWhenIdle (fun s => { s with n := v, status.preValid := false }) s)
  | .index => .next (writeWhenIdle (fun s => { s with index := v }) s)
  | .key0 => .next (writeWhenIdle (fun s => { s with key0 := v, status.kv0 := true }) s)
  | .key1 => .next (writeWhenIdle (fun s => { s with key1 := v, status.kv1 := true }) s)
  | .key2 => .next (writeWhenIdle (fun s => { s with key2 := v, status.kv2 := true }) s)
  | .wlimit => .next (writeWhenIdle (fun s => { s with wlimit := v }) s)

/-- `BusWrite(off, v)` (20_memory.md R63, R64). -/
def busWrite (off : BitVec 7) (v : Word) (s : State) : Host.Outcome State Fault Refusal :=
  match regAt off with
  | some r => writeReg r v (s.respond writeOk)
  | none => .next (s.respond busError)

/-- The host's step: one bus transaction (20_memory.md R61). -/
def hostStep (t : BusTransaction) (s : State) : Host.Outcome State Fault Refusal :=
  if t.we then busWrite t.off t.wdata s else .next (s.respond (busRead t.off s))

/-- The step of the agent that an event names (00_scope.md R10). -/
def perform (e : Event) (s : State) : Host.Outcome State Fault Refusal :=
  match e with
  | .host t => hostStep t s
  | .engine hreqReady => .next (engineStep hreqReady s)
  | .hashResponse => .next (hashStep s)
  | .reset => .next s.hardReset

/-- The bus write that presents a command word (10_state.md R25; 30_encoding.md R97). -/
def cmdWrite (w : Word) : BusTransaction := { we := true, off := Reg.cmd.offset, wdata := w }

/-- The command word that the next step presents to the accept logic, if that step is a write of `CMD`: all the FPE has of an
instruction fetch (10_state.md R23, R25; 30_encoding.md R97). -/
def State.fetchWord (s : State) : Option Word :=
  match s.nextEvent with
  | .host t => if t.we ∧ t.off = Reg.cmd.offset then some t.wdata else none
  | .engine _ => none
  | .hashResponse => none
  | .reset => none

end Sys2Proof.Machine
end

