-- ==== Sys2Proof/Machine/Step.lean ====
section
/-! DEFINITION. One step of the machine, and the state in which the next step runs a given command word. -/

namespace Sys2Proof.Machine

/-- One step: the next agent takes its step (00_scope.md R10; 20_memory.md R77). -/
def step (s : State) : Host.Outcome State Fault Refusal := perform s.nextEvent s.advance

/-- `s` with the command word `w` (of `nbits` bits) arriving next: the host's write of `CMD` put before the other coming events
(10_state.md R25; log 17). -/
def State.withFetchWord (s : State) (nbits w : Nat) : State :=
  { s with inputs := .host (cmdWrite (BitVec.ofNat 64 (w % 2 ^ nbits))) :: s.inputs }

end Sys2Proof.Machine
end

