-- ==== Sys2Proof/Machine/Fairness.lean ====
section
/-! DEFINITION. Which steps of a run are enabled steps, and the liveness assumptions: weak fairness of the engine and of the hash
collaborator (70_reset_and_hazards.md R301; 41_round_function.md R152). No step reads any of this: fairness is a premise on the order
of the agents' steps, which the spec leaves free (00_scope.md R10; log 15). -/

namespace Sys2Proof.Machine

/-- Whether the event is a step of the engine that is enabled in `s` (44_control.md R240). -/
def takesEngineStep (s : State) (e : Event) : Bool :=
  match e with
  | .engine hreqReady => engineEnabled hreqReady s
  | .host _ => false
  | .hashResponse => false
  | .reset => false

/-- Whether the event is a step of the collaborator that is enabled in `s` (41_round_function.md R152). -/
def takesHashStep (s : State) (e : Event) : Bool :=
  match e with
  | .hashResponse => hashEnabled s
  | .host _ => false
  | .engine _ => false
  | .reset => false

/-- How many of the next steps of the machine, `k` of them or as many as there are, are of a given sort. -/
def countSteps (sort : State → Event → Bool) : (k : Nat) → State → Nat
  | 0, _ => 0
  | k + 1, s =>
    (if sort s s.nextEvent then 1 else 0) +
      match step s with
      | .next t => countSteps sort k t
      | .fault _ => 0
      | .refused _ => 0

/-- The enabled engine steps among the next `k` steps of the machine (70_reset_and_hazards.md R300). -/
def engineSteps (k : Nat) (s : State) : Nat := countSteps takesEngineStep k s

/-- The enabled steps of the collaborator among the next `k` steps of the machine (70_reset_and_hazards.md R300). -/
def hashSteps (k : Nat) (s : State) : Nat := countSteps takesHashStep k s

/-- A run without end: `ev k` is the event of step `k`, `st k` the state before it and `st (k + 1)` the state after (20_memory.md
R77; the events are given from outside, in place of `Config.schedule`, log 1). -/
def IsRun (ev : Nat → Event) (st : Nat → State) : Prop :=
  ∀ k, step { st k with inputs := [ev k] } = .next (st (k + 1))

/-- Weak fairness of the engine: "an engine step that stays enabled is eventually taken" (70_reset_and_hazards.md R301). Whether the
step in phase `HREQ` is enabled hangs on `hreq_ready` too, which is the collaborator's (`HashReady`): here the engine has its turn,
whatever `hreq_ready` is then (log 24). -/
def EngineFair (ev : Nat → Event) (st : Nat → State) : Prop :=
  ∀ k, (∀ j, k ≤ j → engineEnabled true (st j) = true) → ∃ j, k ≤ j ∧ ∃ hreqReady, ev j = .engine hreqReady

/-- "`hreq_ready` is eventually 1": a request that stays offered is taken in some step (70_reset_and_hazards.md R301;
41_round_function.md R150, R152; log 24). -/
def HashReady (ev : Nat → Event) (st : Nat → State) : Prop :=
  ∀ k, (∀ j, k ≤ j → (st j).hreqValid = true) → ∃ j, k ≤ j ∧ ev j = .engine true

/-- "A pending request is eventually answered" (70_reset_and_hazards.md R301; 41_round_function.md R152). -/
def HashAnswers (ev : Nat → Event) (st : Nat → State) : Prop :=
  ∀ k, (∀ j, k ≤ j → hashEnabled (st j) = true) → ∃ j, k ≤ j ∧ ev j = .hashResponse

end Sys2Proof.Machine
end

