-- ==== Sys2Proof/Machine/HostProgram.lean ====
section
/-! DEFINITION. The host program syntax, its expansion into bus transactions, and the host's turn (30_encoding.md R98, R99;
70_reset_and_hazards.md R302). A host program is no state of the FPE (10_state.md R20): it is a layer over `step` (log 16). -/

namespace Sys2Proof.Machine

/-- A statement of a host program (30_encoding.md R98). -/
inductive HostStmt where
  /-- `write REG, imm`. -/
  | write (r : Reg) (imm : Word)
  /-- `read REG`. -/
  | read (r : Reg)
  /-- `cmd MNEMONIC`, or `cmd ROUNDF, k`. -/
  | cmd (i : Instr)
  /-- `wait`. -/
  | wait
  /-- `expect REG, imm`. -/
  | expect (r : Reg) (imm : Word)
  deriving DecidableEq, Repr

/-- The bus read of a register (20_memory.md R62). -/
def readOf (r : Reg) : BusTransaction := { we := false, off := r.offset, wdata := 0 }

/-- The transaction a statement issues in each of its host steps (30_encoding.md R98, R99). -/
def HostStmt.transaction : HostStmt → BusTransaction
  | .write r imm => { we := true, off := r.offset, wdata := imm }
  | .read r => readOf r
  | .cmd i => cmdWrite (encode i)
  | .wait => readOf .status
  | .expect r _ => readOf r

/-- Whether a statement has completed, by the response to its transaction: `wait` goes on while the bit read as `BUSY` is 1
(30_encoding.md R99). -/
def HostStmt.completed (st : HostStmt) (resp : Option BusResponse) : Bool :=
  match st with
  | .wait => resp.any fun r => !r.rdata.getLsbD 0
  | .write _ _ => true
  | .read _ => true
  | .cmd _ => true
  | .expect _ _ => true

/-- Whether the value read meets an `expect`; a test assertion without effect on the FPE (30_encoding.md R98). -/
def HostStmt.met (st : HostStmt) (resp : Option BusResponse) : Bool :=
  match st with
  | .expect _ imm => resp.any fun r => r.rdata == imm
  | .write _ _ => true
  | .read _ => true
  | .cmd _ => true
  | .wait => true

/-- The host takes its turn: one transaction of the first statement of its program, before the other coming events
(30_encoding.md R98, R99). An ended program takes no step. -/
def hostTurn (prog : List HostStmt) (s : State) : Host.Outcome (List HostStmt × State) Fault Refusal :=
  match prog with
  | [] => .next ([], s)
  | st :: rest =>
    match step { s with inputs := .host st.transaction :: s.inputs } with
    | .next t => .next (if st.completed t.resp then rest else st :: rest, t)
    | .fault f => .fault f
    | .refused r => .refused r

/-- A program that has ended has a final end state only if `BUSY = 0` (70_reset_and_hazards.md R302). -/
def endedFinal (prog : List HostStmt) (s : State) : Bool := prog.isEmpty && !s.status.busy

end Sys2Proof.Machine
end

