-- ==== Sys2Proof/Safety.lean ====
section
/-! DEFINITION. What the claims speak of: the invariants of the registers and of a running command, a finished walk, and the
lists of events that drive a command to its end (10_state.md R28, R39; 42_feistel_apply.md R178; 43_cycle_walk.md R204;
70_reset_and_hazards.md R300, R301). -/

namespace Sys2Proof.Machine

/-- The smallest positive `h` with `4^h >= n`, as the quoted invariant says it (10_state.md R39; 40_precompute.md R122). -/
def IsHalfBits (n : Word) (h : Nat) : Prop :=
  0 < h ∧ n.toNat ≤ 4 ^ h ∧ ∀ k, 0 < k → n.toNat ≤ 4 ^ k → h ≤ k

/-- The precomputation invariant: the triple registers hold the triple of the current `N` (10_state.md R39). -/
structure TripleOfN (s : State) : Prop where
  half_bits : IsHalfBits s.n s.hbits.toNat
  right_mask : s.rmask = (1#64 <<< s.hbits.toNat) - 1#64
  left_mask : s.lmask = s.rmask <<< s.hbits.toNat
  disjoint : s.lmask &&& s.rmask = 0
  cover : (s.lmask ||| s.rmask).toNat = 2 ^ (2 * s.hbits.toNat) - 1

/-- The `STATUS` invariants (a) to (e) (10_state.md R28). -/
structure StatusInv (s : State) : Prop where
  busy_iff_running : s.status.busy = true ↔ s.ph ≠ .idle
  not_done_and_err : ¬(s.status.done = true ∧ s.status.err = true)
  busy_quiet : s.status.busy = true → s.status.done = false ∧ s.status.err = false
  no_err_no_code : s.status.err = false → s.status.errCode = 0
  err_code : s.status.err = true → 1 ≤ s.status.errCode.toNat ∧ s.status.errCode.toNat ≤ 6
  triple : s.status.preValid = true → TripleOfN s

/-- The opcodes whose engine steps are applications (42_feistel_apply.md R176, R177; 43_cycle_walk.md R200, R201). -/
def Opcode.applies (op : Opcode) : Prop :=
  op = .encode ∨ op = .decode ∨ op = .permute ∨ op = .invert

/-- The opcodes that fold their result into `[0, N)` (43_cycle_walk.md R202). -/
def Opcode.folds (op : Opcode) : Prop := op = .permute ∨ op = .invert

/-- The phases of an application (10_state.md R40). -/
def Phase.inApplication (ph : Phase) : Prop := ph = .setup ∨ ph = .hreq ∨ ph = .hwait ∨ ph = .check

/-- What the hidden registers hold while a command runs (10_state.md R40 to R47; 42_feistel_apply.md R180). -/
structure EngineInv (s : State) : Prop where
  status : StatusInv s
  pre_op : s.ph = .pre → s.op = .precompute ∧ s.n ≠ 0
  application_op : s.ph = .setup ∨ s.ph = .check → s.op.applies
  round_op : s.ph = .hreq ∨ s.ph = .hwait → s.op.applies ∨ s.op = .roundf
  triple_valid : s.ph.inApplication → s.status.preValid = true
  keys_valid : s.ph.inApplication → s.op.applies → s.status.allKeys = true
  roundf_key_valid : s.ph.inApplication → s.op = .roundf → s.status.keyValid s.rnd = true
  folding_in_range : s.ph.inApplication → s.op.folds → s.index < s.n
  port_empty : s.ph ≠ .hwait → s.hp = .empty
  port_waiting : s.ph = .hwait → s.hp = .pending s.request ∨ s.hp = .ready (digestOf s.request)
  halves_small : s.ph = .hreq ∨ s.ph = .hwait → s.op.applies →
    s.wl.toNat < 2 ^ s.hbits.toNat ∧ s.wr.toNat < 2 ^ s.hbits.toNat
  value_small : s.ph = .check → s.u.toNat < 4 ^ s.hbits.toNat

/-- One application in the direction of an opcode (42_feistel_apply.md R178). -/
def Network.apply (p : Network) (op : Opcode) (x : Word) : Word :=
  if op.forward then p.encode x else p.decode x

/-- The halves after the rounds that precede the round with key `rnd` (42_feistel_apply.md R172, R174, R178). -/
def Network.partialRounds (p : Network) (op : Opcode) (rnd : Fin 3) (x : Word) : Half × Half :=
  if op.forward then
    match rnd with
    | 0 => p.split x
    | 1 => p.roundFwd p.key0 (p.split x)
    | 2 => p.roundFwd p.key1 (p.roundFwd p.key0 (p.split x))
  else
    match rnd with
    | 2 => p.split x
    | 1 => p.roundBwd p.key2 (p.split x)
    | 0 => p.roundBwd p.key1 (p.roundBwd p.key2 (p.split x))

/-- A network whose masks are those of its half width (10_state.md R39; 40_precompute.md R121, R124). -/
structure Network.WellFormed (p : Network) : Prop where
  h_pos : 1 ≤ p.h
  h_le : p.h ≤ 32
  right_mask : p.rmask = (1#64 <<< p.h) - 1#64
  left_mask : p.lmask = p.rmask <<< p.h

/-- `k` applications of `f` from `x` are the first that land below `n`, with the result `y` (43_cycle_walk.md R202, R204). -/
def WalksTo (f : Word → Word) (n x : Word) (k : Nat) (y : Word) : Prop :=
  1 ≤ k ∧ f^[k] x = y ∧ y < n ∧ ∀ j, 1 ≤ j → j < k → n ≤ f^[j] x

/-- The applications 1 to `k` of `f` from `x` all stay outside `[0, n)` (43_cycle_walk.md R205). -/
def Misses (f : Word → Word) (n x : Word) (k : Nat) : Prop := ∀ j, 1 ≤ j → j ≤ k → n ≤ f^[j] x

/-- How far a running application or walk has come: `U` is `INDEX` after the applications counted in `WC`, none of which
landed, and the halves are those of the rounds done (42_feistel_apply.md R178; 43_cycle_walk.md R203, R205). -/
structure WalkInv (s : State) : Prop where
  engine : EngineInv s
  value : s.ph.inApplication → s.op.applies → s.u = (s.network.apply s.op)^[s.wc.toNat] s.index
  rounds : s.ph = .hreq ∨ s.ph = .hwait → s.op.applies →
    (s.wl, s.wr) = s.network.partialRounds s.op s.rnd s.u
  missed : s.ph = .setup ∨ s.ph = .hreq ∨ s.ph = .hwait → s.op.folds →
    Misses (s.network.apply s.op) s.n s.index s.wc.toNat
  missed_before : s.ph = .check → s.op.folds →
    Misses (s.network.apply s.op) s.n s.index (s.wc.toNat - 1)
  counted : s.ph = .check → 1 ≤ s.wc.toNat
  below_cap : s.ph = .setup ∨ s.ph = .hreq ∨ s.ph = .hwait → s.op.folds → s.wlimit ≠ 0 → s.wc < s.wlimit
  within_cap : s.ph = .check → s.op.folds → s.wlimit ≠ 0 → s.wc ≤ s.wlimit
  single_start : s.ph = .setup ∨ s.ph = .hreq ∨ s.ph = .hwait → s.op.single = true → s.wc = 0
  single_end : s.ph = .check → s.op.single = true → s.wc = 1

/-- The events of one application with no waiting: `SETUP`, three times `HREQ`, the response, `HWAIT`, then `CHECK`
(70_reset_and_hazards.md R300). -/
def applicationEvents : List Event :=
  [.engine true,
   .engine true, .hashResponse, .engine true,
   .engine true, .hashResponse, .engine true,
   .engine true, .hashResponse, .engine true,
   .engine true]

/-- `k` times the engine's turn and then the collaborator's, with `hreq_ready` always 1 and no bus transaction between: one list of
events among those that are fair to both (70_reset_and_hazards.md R301 asks for weak fairness only, `EngineFair`, `HashReady`,
`HashAnswers`; log 15). -/
def fairTurns : Nat → List Event
  | 0 => []
  | k + 1 => .engine true :: .hashResponse :: fairTurns k

/-- The state with the given coming events (log 1). -/
def State.withInputs (s : State) (es : List Event) : State := { s with inputs := es }

/-- No error has been raised in the run so far, by the ghost log that no step clears (60_exceptions.md R250; D39). -/
def ErrorFree (s : State) : Prop := s.raised = []

end Sys2Proof.Machine
end

