-- ==== Sys2Proof/Certificates/Slice0/Obligations.lean ====
section
/-! DEFINITION. The statements for the provers. Each docstring names the rule of spec/ it formalises, or says that it is derived. -/

open Sys2Proof Sys2Proof.Machine

/-! ## Encoding -/

/-- The legality test, in the form the spec gives it; the ten legal words, which the spec marks as its own inference; and that the
decoder answers a command exactly for the legal words (derived from 30_encoding.md, "Formats and lengths"). -/
def Obligations.LegalWordsAreTen : Prop :=
  ∀ w : Word,
    (legal w = true ↔
      w.extractLsb' 6 58 = 0 ∧ (w.extractLsb' 0 4).toNat ≤ 0x7 ∧
        (((w.extractLsb' 0 4).toNat = 0x6 ∧ (w.extractLsb' 4 2).toNat ≤ 2) ∨
          ((w.extractLsb' 0 4).toNat ≠ 0x6 ∧ (w.extractLsb' 4 2).toNat = 0))) ∧
    (legal w = true ↔
      w = 0x00#64 ∨ w = 0x01#64 ∨ w = 0x02#64 ∨ w = 0x03#64 ∨ w = 0x04#64 ∨ w = 0x05#64 ∨ w = 0x06#64 ∨
        w = 0x16#64 ∨ w = 0x26#64 ∨ w = 0x07#64) ∧
    (legal w = true ↔ ∃ i, decode w = .command i)

/-- Decode and encode agree in both directions, for every command and every word (derived from 30_encoding.md, "Formats and
lengths"). -/
def Obligations.DecodeEncodeAgree : Prop :=
  (∀ i : Instr, i.wellFormed = true → decode (encode i) = .command i) ∧
  (∀ (w : Word) (i : Instr), decode w = .command i → i.wellFormed = true ∧ encode i = w)

/-- 30_encoding.md R95: the exact command words, each the encoding of its command and decoding to it. -/
def Obligations.CommandWordsDecode : Prop :=
  (encode .nop = 0x0000000000000000#64 ∧ decode 0x0000000000000000#64 = .command .nop) ∧
  (encode .precompute = 0x0000000000000001#64 ∧ decode 0x0000000000000001#64 = .command .precompute) ∧
  (encode .encode = 0x0000000000000002#64 ∧ decode 0x0000000000000002#64 = .command .encode) ∧
  (encode .decode = 0x0000000000000003#64 ∧ decode 0x0000000000000003#64 = .command .decode) ∧
  (encode .permute = 0x0000000000000004#64 ∧ decode 0x0000000000000004#64 = .command .permute) ∧
  (encode .invert = 0x0000000000000005#64 ∧ decode 0x0000000000000005#64 = .command .invert) ∧
  (∀ k : BitVec 2, k.toNat ≤ 2 → encode (.roundf k) = 0x6#64 ||| (k.setWidth 64 <<< 4) ∧
    decode (0x6#64 ||| (k.setWidth 64 <<< 4)) = .command (.roundf k)) ∧
  (encode .clear = 0x0000000000000007#64 ∧ decode 0x0000000000000007#64 = .command .clear)

/-- 30_encoding.md R94: which words are illegal, and what an illegal word does. -/
def Obligations.IllegalWordsAreErrors : Prop :=
  ∀ (w : Word) (s : State),
    (legal w = false ↔
      8 ≤ (w.extractLsb' 0 4).toNat ∨ w.extractLsb' 6 58 ≠ 0 ∨
        ((w.extractLsb' 0 4).toNat ≠ 0x6 ∧ (w.extractLsb' 4 2).toNat ≠ 0) ∨
        ((w.extractLsb' 0 4).toNat = 0x6 ∧ (w.extractLsb' 4 2).toNat = 3)) ∧
    (legal w = false →
      (s.status.busy = false → s.status.err = false →
        acceptWord w s = .next
          { s with
            status := { s.status with err := true, errCode := 1, done := false, busy := false }
            ph := .idle
            raised := .illegalCmd :: s.raised }) ∧
      (s.status.busy = true ∨ s.status.err = true →
        acceptWord w s = .next { s with status := { s.status with rej := true } }))

/-! ## The step -/

/-- A step runs the decoded command: where the next event presents a word that decodes to `i`, the step is the meaning of `i` in
the state with that event taken off and the bus write answered (derived from 44_control.md, "Acceptance", and 20_memory.md). -/
def Obligations.StepRunsDecodedCommand : Prop :=
  ∀ (s : State) (w : Word) (i : Instr), s.fetchWord = some w → decode w = .command i →
    i.wellFormed = true ∧
    step s = exec i
      { s with
        inputs := s.inputs.tail
        turn := if s.inputs = [] then s.turn + 1 else s.turn
        resp := some { rdata := 0, err := false } }

/-- Each step is the step of the agent that the next coming event names, and a command word placed by `withFetchWord` is the one
the very next step accepts (derived from 00_scope.md, "Step granularity", and 10_state.md, `CMD`; the list of coming events is the
model's own, log 1, 17). -/
def Obligations.StepTakesNextEvent : Prop :=
  (∀ (s : State) (e : Event) (es : List Event),
    step (s.withInputs (e :: es)) = perform e { s with inputs := es, resp := none }) ∧
  (∀ (s : State) (w : Word),
    step (s.withFetchWord 64 w.toNat) = acceptWord w { s with resp := some { rdata := 0, err := false } })

/-- The FPE never stops: every step from every state is a next state (derived from 60_exceptions.md, "Error model"). -/
def Obligations.EveryStepHasNextState : Prop := ∀ s : State, ∃ t : State, step s = .next t

/-! ## The commands at accept -/

/-- 44_control.md R237: NOP. -/
def Obligations.NopHasNoEffect : Prop :=
  encode .nop = 0x0000000000000000#64 ∧
  (∀ s : State, s.status.busy = false → exec .nop s = .next s) ∧
  (∀ s : State, s.status.busy = true → exec .nop s = .next { s with status := { s.status with rej := true } }) ∧
  (∀ w : Word, w.extractLsb' 0 4 = 0 → w.extractLsb' 6 58 ≠ 0 → ∀ i, decode w ≠ .command i)

/-- 44_control.md R239: CLEAR, with its example. -/
def Obligations.ClearAcknowledges : Prop :=
  encode .clear = 0x0000000000000007#64 ∧
  (∀ s : State, s.status.busy = false → exec .clear s = .next
    { s with status := { s.status with done := false, err := false, errCode := 0, rej := false } }) ∧
  (∀ s : State, s.status.busy = true → exec .clear s = .next { s with status := { s.status with rej := true } }) ∧
  (∀ s : State, s.status.word = 0x05F4#64 → ∃ t : State, exec .clear s = .next t ∧ t.status.word = 0x00F0#64)

/-- PRECOMPUTE starts for every `N` but 0, and with `N = 0` is the error N_ZERO, which leaves the triple and `PRE_VALID` as they
were (derived from 40_precompute.md, PRECOMPUTE and `n = 0`, and 44_control.md, "Acceptance"). -/
def Obligations.PrecomputeStartsUnlessZero : Prop :=
  (∀ s : State, s.status.busy = false → s.status.err = false → s.n ≠ 0 →
    exec .precompute s = .next
      { s with status := { s.status with done := false, busy := true }, op := .precompute, ph := .pre }) ∧
  (∀ s : State, s.status.busy = false → s.status.err = false → s.n = 0 →
    exec .precompute s = .next
      { s with
        status := { s.status with err := true, errCode := 2, done := false, busy := false }
        ph := .idle
        raised := .nZero :: s.raised })

/-- ENCODE and DECODE start when the triple and the three keys are valid, whatever `INDEX` is (derived from
42_feistel_apply.md, "Commands"). -/
def Obligations.EncodeAndDecodeStart : Prop :=
  ∀ s : State, s.status.busy = false → s.status.err = false → s.status.preValid = true →
    s.status.kv0 = true → s.status.kv1 = true → s.status.kv2 = true →
    exec .encode s = .next
      { s with
        status := { s.status with done := false, busy := true }
        op := .encode, u := s.index, wc := 0, ph := .setup } ∧
    exec .decode s = .next
      { s with
        status := { s.status with done := false, busy := true }
        op := .decode, u := s.index, wc := 0, ph := .setup }

/-- PERMUTE and INVERT start when the triple and the keys are valid and `INDEX < N` (derived from 43_cycle_walk.md,
"Commands"). -/
def Obligations.PermuteAndInvertStart : Prop :=
  ∀ s : State, s.status.busy = false → s.status.err = false → s.status.preValid = true →
    s.status.kv0 = true → s.status.kv1 = true → s.status.kv2 = true → s.index.toNat < s.n.toNat →
    exec .permute s = .next
      { s with
        status := { s.status with done := false, busy := true }
        op := .permute, u := s.index, wc := 0, ph := .setup } ∧
    exec .invert s = .next
      { s with
        status := { s.status with done := false, busy := true }
        op := .invert, u := s.index, wc := 0, ph := .setup }

/-- ROUNDF with `KSEL` 0, 1 or 2 starts when the triple and that one key are valid (derived from 41_round_function.md,
"ROUNDF command"). -/
def Obligations.RoundfStarts : Prop :=
  ∀ (s : State) (k : Fin 3), s.status.busy = false → s.status.err = false → s.status.preValid = true →
    (k = 0 → s.status.kv0 = true) → (k = 1 → s.status.kv1 = true) → (k = 2 → s.status.kv2 = true) →
    exec (.roundf (BitVec.ofNat 2 k.val)) s = .next
      { s with
        status := { s.status with done := false, busy := true }
        op := .roundf, rnd := k, ph := .hreq }

/-- The errors a computing command raises at accept, in the order of the checks: NOT_PRECOMPUTED, then KEYS_MISSING, then for
PERMUTE and INVERT INDEX_RANGE (derived from 44_control.md, "Acceptance", and 60_exceptions.md, "Error codes and causes"). -/
def Obligations.AcceptErrorsInOrder : Prop :=
  ∀ s : State, s.status.busy = false → s.status.err = false →
    (s.status.preValid = false →
      ∀ i, i = .encode ∨ i = .decode ∨ i = .permute ∨ i = .invert ∨ (∃ k : BitVec 2, k.toNat ≤ 2 ∧ i = .roundf k) →
        exec i s = .next
          { s with
            status := { s.status with err := true, errCode := 3, done := false, busy := false }
            ph := .idle
            raised := .notPrecomputed :: s.raised }) ∧
    (s.status.preValid = true →
      (s.status.kv0 = false ∨ s.status.kv1 = false ∨ s.status.kv2 = false →
        ∀ i, i = .encode ∨ i = .decode ∨ i = .permute ∨ i = .invert →
          exec i s = .next
            { s with
              status := { s.status with err := true, errCode := 4, done := false, busy := false }
              ph := .idle
              raised := .keysMissing :: s.raised }) ∧
      (∀ k : BitVec 2, (k = 0 ∧ s.status.kv0 = false) ∨ (k = 1 ∧ s.status.kv1 = false) ∨ (k = 2 ∧ s.status.kv2 = false) →
        exec (.roundf k) s = .next
          { s with
            status := { s.status with err := true, errCode := 4, done := false, busy := false }
            ph := .idle
            raised := .keysMissing :: s.raised }) ∧
      (s.status.kv0 = true → s.status.kv1 = true → s.status.kv2 = true → s.n.toNat ≤ s.index.toNat →
        ∀ i, i = .permute ∨ i = .invert →
          exec i s = .next
            { s with
              status := { s.status with err := true, errCode := 5, done := false, busy := false }
              ph := .idle
              raised := .indexRange :: s.raised }))

/-- 44_control.md R231, R232: every word written while busy is dropped, legal or not; while `ERR = 1` only NOP and CLEAR are acted
on. -/
def Obligations.DroppedCommandWords : Prop :=
  (∀ (w : Word) (s : State), s.status.busy = true →
    acceptWord w s = .next { s with status := { s.status with rej := true } }) ∧
  (∀ (w : Word) (s : State), s.status.busy = false → s.status.err = true →
    acceptWord w s = .next
      (if w = 0x0#64 then s
       else if w = 0x7#64 then
         { s with status := { s.status with done := false, err := false, errCode := 0, rej := false } }
       else { s with status := { s.status with rej := true } }))

/-! ## The bus -/

/-- 10_state.md R24: the fields of `ID`, its example, and that it reads so in every state, writes and reset included. -/
def Obligations.IdRegisterFields : Prop :=
  (idValue.extractLsb' 0 8 = 3 ∧ idValue.extractLsb' 8 8 = 3 ∧
    (idValue.extractLsb' 16 8).toNat = digestBytes % 256 ∧ idValue.extractLsb' 24 8 = 1 ∧
    idValue.extractLsb' 32 32 = 0x46455354#32) ∧
  idWord 64 = 0x4645535401400303#64 ∧
  (∀ s : State, busRead 0x00#7 s = { rdata := idValue, err := false }) ∧
  (∀ (s : State) (v : Word), busWrite 0x00#7 v s = .next (s.respond { rdata := 0, err := false }))

/-- 20_memory.md R62: a read answers the register at its offset and changes no register; elsewhere it is an error response;
`STATUS` reads as its fields at their bits. -/
def Obligations.ReadsAnswerTheRegister : Prop :=
  (∀ (off : BitVec 7) (d : Word) (s : State),
    perform (.host { we := false, off := off, wdata := d }) s = .next
      { s with
        resp := some (
          if off = 0x00#7 then { rdata := idValue, err := false }
          else if off = 0x08#7 then { rdata := 0, err := false }
          else if off = 0x10#7 then { rdata := s.status.word, err := false }
          else if off = 0x18#7 then { rdata := (if s.ie then 1 else 0), err := false }
          else if off = 0x20#7 then { rdata := s.n, err := false }
          else if off = 0x28#7 then { rdata := s.index, err := false }
          else if off = 0x30#7 then { rdata := s.result, err := false }
          else if off = 0x38#7 then { rdata := s.key0, err := false }
          else if off = 0x40#7 then { rdata := s.key1, err := false }
          else if off = 0x48#7 then { rdata := s.key2, err := false }
          else if off = 0x50#7 then { rdata := s.lmask, err := false }
          else if off = 0x58#7 then { rdata := s.rmask, err := false }
          else if off = 0x60#7 then { rdata := BitVec.ofNat 64 s.hbits.toNat, err := false }
          else if off = 0x68#7 then { rdata := s.wlimit, err := false }
          else if off = 0x70#7 then { rdata := s.wcount, err := false }
          else { rdata := 0, err := true }) }) ∧
  (∀ f : Status,
    f.word.getLsbD 0 = f.busy ∧ f.word.getLsbD 1 = f.done ∧ f.word.getLsbD 2 = f.err ∧ f.word.getLsbD 3 = f.rej ∧
    f.word.getLsbD 4 = f.preValid ∧ f.word.getLsbD 5 = f.kv0 ∧ f.word.getLsbD 6 = f.kv1 ∧ f.word.getLsbD 7 = f.kv2 ∧
    f.word.extractLsb' 8 4 = f.errCode ∧ f.word.extractLsb' 12 52 = 0)

/-- 20_memory.md R64, R66: a misaligned or unmapped transaction, read or write, is an error response and changes nothing; a write to
a read-only register is ignored, busy or not. -/
def Obligations.WritesWithoutEffect : Prop :=
  (∀ (t : BusTransaction) (s : State), t.off.toNat % 8 ≠ 0 ∨ 0x78 ≤ t.off.toNat →
    perform (.host t) s = .next { s with resp := some { rdata := 0, err := true } }) ∧
  (∀ (off : BitVec 7) (v : Word) (s : State),
    off = 0x00#7 ∨ off = 0x10#7 ∨ off = 0x30#7 ∨ off = 0x50#7 ∨ off = 0x58#7 ∨ off = 0x60#7 ∨ off = 0x70#7 →
    perform (.host { we := true, off := off, wdata := v }) s = .next { s with resp := some { rdata := 0, err := false } })

/-- 20_memory.md R67: while busy a write to an operand register or to `CMD` is dropped and sets `REJ`, and a write to `CFG` takes
effect; so no step but a reset changes an operand of a running command. -/
def Obligations.BusyWritesAreDropped : Prop :=
  (∀ (off : BitVec 7) (v : Word) (s : State), s.status.busy = true →
    off = 0x20#7 ∨ off = 0x28#7 ∨ off = 0x38#7 ∨ off = 0x40#7 ∨ off = 0x48#7 ∨ off = 0x68#7 ∨ off = 0x08#7 →
    perform (.host { we := true, off := off, wdata := v }) s = .next
      { s with status := { s.status with rej := true }, resp := some { rdata := 0, err := false } }) ∧
  (∀ (v : Word) (s : State), s.status.busy = true →
    perform (.host { we := true, off := 0x18#7, wdata := v }) s = .next
      { s with ie := v.getLsbD 0, resp := some { rdata := 0, err := false } }) ∧
  (∀ s t : State, s.status.busy = true → s.nextEvent ≠ .reset → step s = .next t →
    t.n = s.n ∧ t.index = s.index ∧ t.key0 = s.key0 ∧ t.key1 = s.key1 ∧ t.key2 = s.key2 ∧ t.wlimit = s.wlimit)

/-- 20_memory.md R68, R69, R70: the writes of the operand registers while not busy, and nothing else of the state. -/
def Obligations.IdleWritesOfOperands : Prop :=
  ∀ (v : Word) (s : State), s.status.busy = false →
    perform (.host { we := true, off := 0x20#7, wdata := v }) s = .next
      { s with n := v, status := { s.status with preValid := false }, resp := some { rdata := 0, err := false } } ∧
    perform (.host { we := true, off := 0x38#7, wdata := v }) s = .next
      { s with key0 := v, status := { s.status with kv0 := true }, resp := some { rdata := 0, err := false } } ∧
    perform (.host { we := true, off := 0x40#7, wdata := v }) s = .next
      { s with key1 := v, status := { s.status with kv1 := true }, resp := some { rdata := 0, err := false } } ∧
    perform (.host { we := true, off := 0x48#7, wdata := v }) s = .next
      { s with key2 := v, status := { s.status with kv2 := true }, resp := some { rdata := 0, err := false } } ∧
    perform (.host { we := true, off := 0x28#7, wdata := v }) s = .next
      { s with index := v, resp := some { rdata := 0, err := false } } ∧
    perform (.host { we := true, off := 0x68#7, wdata := v }) s = .next
      { s with wlimit := v, resp := some { rdata := 0, err := false } }

/-- 20_memory.md R71: a write of `CFG`, busy or not, sets `IE` from bit 0 alone, and `irq` follows at once. -/
def Obligations.CfgWriteSetsInterruptEnable : Prop :=
  ∀ (v : Word) (s : State), ∃ t : State,
    perform (.host { we := true, off := 0x18#7, wdata := v }) s = .next t ∧
    t = { s with ie := v.getLsbD 0, resp := some { rdata := 0, err := false } } ∧
    t.irq = (v.getLsbD 0 && (s.status.done || s.status.err)) ∧
    t.cfgWord = v &&& 1#64

/-! ## The engine and the hash port -/

/-- 40_precompute.md R121: the precompute step, with `h` the smallest positive integer with `4^h >= N`. -/
def Obligations.PrecomputeStepWritesTriple : Prop :=
  ∀ (s : State) (hreqReady : Bool), s.ph = .pre →
    ∃ h : Nat, IsHalfBits s.n h ∧ 1 ≤ h ∧ h ≤ 32 ∧
      (((1#64 <<< h) - 1#64) <<< h) &&& ((1#64 <<< h) - 1#64) = 0 ∧
      ((((1#64 <<< h) - 1#64) <<< h) ||| ((1#64 <<< h) - 1#64)).toNat = 2 ^ (2 * h) - 1 ∧
      perform (.engine hreqReady) s = .next
        { s with
          rmask := (1#64 <<< h) - 1#64
          lmask := ((1#64 <<< h) - 1#64) <<< h
          hbits := BitVec.ofNat 6 h
          status := { s.status with preValid := true, busy := false, done := true }
          ph := .idle }

/-- 40_precompute.md R122: `half_bits_of` is the least positive `h` with `4^h >= n`, and for `n <= 2^62` the reference loop, run
any number of turns from 31 on, gives the same value. -/
def Obligations.HalfBitsIsLeast : Prop :=
  (∀ n : Word, 1 ≤ n.toNat → IsHalfBits n (halfBits n)) ∧
  (∀ n : Word, 1 ≤ n.toNat → n.toNat ≤ 2 ^ 62 → ∀ extra : Nat,
    halfBitsLoop n.toNat 4 1 (31 + extra) = halfBits n)

/-- The closed form and the range of `half_bits`, where it is 32, and that the masks fit (derived from 40_precompute.md, "Closed
form" and "Range", which the spec marks as its own inference). -/
def Obligations.HalfBitsClosedFormAndRange : Prop :=
  ∀ n : Word, 1 ≤ n.toNat →
    halfBits n = max 1 ((Nat.size (n.toNat - 1) + 1) / 2) ∧
    1 ≤ halfBits n ∧ halfBits n ≤ 32 ∧ (halfBits n = 32 ↔ 2 ^ 62 < n.toNat) ∧
    (leftMask (halfBits n) ||| rightMask (halfBits n)).toNat = 2 ^ (2 * halfBits n) - 1 ∧
    (rightMask (halfBits n)).toNat = 2 ^ halfBits n - 1

/-- 41_round_function.md R151: byte by byte, the message is the key big-endian and then zeros: written over the value, which is
written first and leaves no trace. -/
def Obligations.MessageIsKeyThenZeros : Prop :=
  ∀ (v key : Word) (i : Fin 16),
    (msg v key)[i] = (if i.val < 8 then key.extractLsb' (56 - 8 * i.val) 8 else 0) ∧
    (msgWrite (Vector.replicate 16 0) v)[i] = (if i.val < 8 then v.extractLsb' (56 - 8 * i.val) 8 else 0)

/-- The round function does not depend on its value operand: it is the masked digest of its key (derived from
41_round_function.md, "`F` does not depend on its value operand", the spec's own inference). -/
def Obligations.RoundFunctionIgnoresValue : Prop :=
  ∀ v v' key mask : Word,
    roundF v key mask = roundF v' key mask ∧ msg v key = msg v' key ∧ roundF v key mask = keyDigest key &&& mask

/-- 41_round_function.md R155: the byte lanes of the message and of the digest. -/
def Obligations.HashPortByteLanes : Prop :=
  (∀ (m : Msg) (i : Fin 16), (msgWires m).extractLsb' (120 - 8 * i.val) 8 = m[i]) ∧
  (∀ (x : BitVec (8 * digestBytes)) (i : Nat) (h : i < (digestOfWires x).length),
    (digestOfWires x).length = digestBytes ∧
    (digestOfWires x)[i] = x.extractLsb' (8 * digestBytes - 8 - 8 * i) 8)

/-- Every position that `P_SEL` selects lies inside the digest, which has at least eight bytes (derived from 41_round_function.md,
"Reduction table and digest size"; in the model by construction, log 4). -/
def Obligations.SelectedBytesAreInDigest : Prop :=
  8 ≤ digestBytes ∧ (∀ j : Fin 8, 1 + (Config.selTable j).pos ≤ digestBytes) ∧
  (∀ m : Msg, (digestOf m).length = digestBytes)

/-- With the default `P_SEL` the reduction is the big-endian value of the first eight digest bytes, and the low `h` bits come from
the last `ceil(h / 8)` of them (derived from 41_round_function.md, "Reduction table and digest size", and its sentence "Only the low
`h` bits of `Reduce(d)` reach the datapath", the spec's own inference). -/
def Obligations.DefaultReductionIsBigEndian : Prop :=
  (∀ (d : Digest) (j : Fin 8) (h : 8 ≤ d.length),
    (reduceWith defaultSel d).extractLsb' (56 - 8 * j.val) 8 = d[j.val]) ∧
  (∀ (d d' : Digest) (h : Nat), 8 ≤ d.length → 8 ≤ d'.length → h ≤ 32 →
    (∀ i, 8 - (h + 7) / 8 ≤ i → i ≤ 7 → d.getD i 0 = d'.getD i 0) →
    reduceWith defaultSel d &&& ((1#64 <<< h) - 1#64) = reduceWith defaultSel d' &&& ((1#64 <<< h) - 1#64))

/-- 42_feistel_apply.md R171: the split of an application. -/
def Obligations.SetupStepSplits : Prop :=
  ∀ (s : State) (hreqReady : Bool), s.ph = .setup →
    perform (.engine hreqReady) s = .next
      { s with
        wl := ((s.u &&& s.lmask) >>> s.hbits.toNat).setWidth 32
        wr := (s.u &&& s.rmask).setWidth 32
        rnd := if s.op = .encode ∨ s.op = .permute then 0 else 2
        ph := .hreq }

/-- The hash request of a round and its wires: a request transfers in exactly the steps in which `hreq_valid` and `hreq_ready` are 1,
`hreq_msg` then carries its bytes (log 11), and an engine step that is not enabled does nothing (log 2). Beside it, the
collaborator's step (log 22): it answers a pending request with the digest of its message, of `DIGEST_BYTES` bytes, and a response
with no request pending, or a second one, is ignored (derived from 41_round_function.md, "Hash port", its engine step in phase
`HREQ`, the collaborator's step and stray responses). -/
def Obligations.HashRequestAndResponse : Prop :=
  (∀ (s : State) (hreqReady : Bool), s.ph = .hreq →
    (s.hp = .empty → hreqReady = true →
      ∀ m, m = msg
          (if s.op = .encode ∨ s.op = .permute then s.wr.setWidth 64
           else if s.op = .decode ∨ s.op = .invert then s.wl.setWidth 64
           else s.index &&& s.rmask)
          (if s.rnd = 0 then s.key0 else if s.rnd = 1 then s.key1 else s.key2) →
        perform (.engine hreqReady) s = .next { s with hp := .pending m, ph := .hwait, sent := m :: s.sent }) ∧
    (s.hp ≠ .empty ∨ hreqReady = false → perform (.engine hreqReady) s = .next s)) ∧
  (∀ (e : Event) (s t : State), perform e s = .next t →
    (s.hreqValid = true ↔ s.ph = .hreq ∧ s.hp = .empty) ∧
    (t.sent ≠ s.sent ↔ s.hreqValid = true ∧ e = .engine true) ∧
    (s.hreqValid = true → e = .engine true →
      ∃ m : Msg, t.hp = .pending m ∧ t.sent = m :: s.sent ∧
        ∀ i : Fin 16, s.hreqMsg.extractLsb' (120 - 8 * i.val) 8 = m[i])) ∧
  (∀ (s : State) (m : Msg), s.hp = .pending m →
    (digestOf m).length = digestBytes ∧ perform .hashResponse s = .next { s with hp := .ready (digestOf m) }) ∧
  (∀ s : State, s.hp = .empty → perform .hashResponse s = .next s) ∧
  (∀ (s : State) (d : Digest), s.hp = .ready d → perform .hashResponse s = .next s)

/-- 42_feistel_apply.md R172: the completion of a forward round, whose value is `F(WR, KEY[RND], RMASK)` when the digest is that of
the round's request, and the recombination after the last. -/
def Obligations.ForwardRoundCompletes : Prop :=
  ∀ (s : State) (d : Digest) (hreqReady : Bool), s.ph = .hwait → s.hp = .ready d →
    s.op = .encode ∨ s.op = .permute →
    ∀ f, f = (reduce d &&& s.rmask).setWidth 32 →
      (d = digestOf s.request → f = (roundF (s.wr.setWidth 64) (s.key s.rnd) s.rmask).setWidth 32) ∧
      (s.rnd ≠ 2 → perform (.engine hreqReady) s = .next
        { s with wl := s.wr, wr := s.wl ^^^ f, hp := .empty, rnd := s.rnd + 1, ph := .hreq }) ∧
      (s.rnd = 2 → perform (.engine hreqReady) s = .next
        { s with
          wl := s.wr
          wr := s.wl ^^^ f
          hp := .empty
          u := (s.wr.setWidth 64 <<< s.hbits.toNat) ||| (s.wl ^^^ f).setWidth 64
          wc := s.wc + 1
          ph := .check })

/-- The completion of a backward round and, after the last, the recombination; and that a backward round undoes the forward round
with the same key (derived from 42_feistel_apply.md, "Backward round completion" and the spec's own inference there). -/
def Obligations.BackwardRoundCompletes : Prop :=
  (∀ (s : State) (d : Digest) (hreqReady : Bool), s.ph = .hwait → s.hp = .ready d →
    s.op = .decode ∨ s.op = .invert →
    ∀ f, f = (reduce d &&& s.rmask).setWidth 32 →
      (s.rnd ≠ 0 → perform (.engine hreqReady) s = .next
        { s with wl := s.wr ^^^ f, wr := s.wl, hp := .empty, rnd := s.rnd - 1, ph := .hreq }) ∧
      (s.rnd = 0 → perform (.engine hreqReady) s = .next
        { s with
          wl := s.wr ^^^ f
          wr := s.wl
          hp := .empty
          u := ((s.wr ^^^ f).setWidth 64 <<< s.hbits.toNat) ||| s.wl.setWidth 64
          wc := s.wc + 1
          ph := .check })) ∧
  (∀ (p : Network) (key : Word) (lr : Half × Half), p.roundBwd key (p.roundFwd key lr) = lr)

/-- ROUNDF completes: `RESULT` is the masked reduced digest and no other data register changes (derived from
41_round_function.md, "ROUNDF command"). -/
def Obligations.RoundfCompletes : Prop :=
  ∀ (s : State) (d : Digest) (hreqReady : Bool), s.ph = .hwait → s.hp = .ready d → s.op = .roundf →
    perform (.engine hreqReady) s = .next
      { s with
        result := reduce d &&& s.rmask
        hp := .empty
        status := { s.status with busy := false, done := true }
        ph := .idle }

/-- 43_cycle_walk.md R203: the decision after an application. -/
def Obligations.CheckStepDecides : Prop :=
  ∀ (s : State) (hreqReady : Bool), s.ph = .check →
    perform (.engine hreqReady) s = .next
      (if s.op = .encode ∨ s.op = .decode ∨ s.u.toNat < s.n.toNat then
        { s with
          result := s.u, wcount := s.wc, ph := .idle
          status := { s.status with busy := false, done := true } }
       else if s.wlimit ≠ 0 ∧ s.wlimit.toNat ≤ s.wc.toNat then
        { s with
          wcount := s.wc, ph := .idle
          status := { s.status with err := true, errCode := 6, done := false, busy := false }
          raised := .walkLimit :: s.raised }
       else { s with ph := .setup })

/-- An engine step does something exactly in the states of the scheduling table, and nothing elsewhere (derived from 44_control.md,
"Engine scheduling", the spec's own inference). -/
def Obligations.EngineSchedulingTable : Prop :=
  ∀ (s : State) (hreqReady : Bool),
    perform (.engine hreqReady) s ≠ .next s ↔
      (s.ph = .pre ∨ s.ph = .setup ∨ (s.ph = .hreq ∧ s.hp = .empty ∧ hreqReady = true) ∨
        (s.ph = .hwait ∧ ∃ d, s.hp = .ready d) ∨ s.ph = .check)

/-! ## Reset -/

/-- What a reset sets, from every state; and the machine right after reset, `irq` low included (derived from
70_reset_and_hazards.md, "Reset", and the reset summary of 10_state.md, the spec's own inference). -/
def Obligations.ResetSetsEveryRegister : Prop :=
  (∀ s : State, ∃ t : State, perform .reset s = .next t ∧
    t.status.word = 0 ∧ t.cfgWord = 0 ∧ t.n = 0 ∧ t.index = 0 ∧ t.result = 0 ∧ t.key0 = 0 ∧ t.key1 = 0 ∧ t.key2 = 0 ∧
    t.lmask = 0 ∧ t.rmask = 0 ∧ t.hbits = 0 ∧ t.wlimit = 0 ∧ t.wcount = 0 ∧ t.ph = .idle ∧ t.op = .nop ∧ t.rnd = 0 ∧
    t.wl = 0 ∧ t.wr = 0 ∧ t.u = 0 ∧ t.wc = 0 ∧ t.hp = .empty ∧ readReg .id t = idValue) ∧
  (∀ r : Reg, r ≠ .id → readReg r State.reset = 0) ∧ readReg .id State.reset = idValue ∧
  State.reset.ph = .idle ∧ State.reset.op = .nop ∧ State.reset.rnd = 0 ∧ State.reset.wl = 0 ∧ State.reset.wr = 0 ∧
  State.reset.u = 0 ∧ State.reset.wc = 0 ∧ State.reset.hp = .empty ∧ State.reset.irq = false

/-! ## Invariants -/

/-- The three invariants hold at reset (derived from 10_state.md, the `STATUS` invariants and the reset summary). -/
def Obligations.InvariantsHoldAtReset : Prop :=
  StatusInv State.reset ∧ EngineInv State.reset ∧ WalkInv State.reset

/-- The `STATUS` invariants are kept by every step from every state that has them (derived from 10_state.md, "`STATUS`
invariants, kept by every rule of the spec", the spec's own inference). -/
def Obligations.StatusInvKept : Prop :=
  ∀ s t : State, StatusInv s → step s = .next t → StatusInv t

/-- The invariant of the hidden registers is kept by every step: phases agree with opcodes, the hash port with the phase, the
halves stay below `2^h` and the value below `4^h` (derived from 10_state.md, "Hidden engine registers", and
42_feistel_apply.md, "Laws of an application"). -/
def Obligations.EngineInvKept : Prop :=
  ∀ s t : State, EngineInv s → step s = .next t → EngineInv t

/-- The invariant of a walk is kept by every step of every agent, in whatever order they come: `U` is `INDEX` after `WC`
applications, and none of them landed (derived from 42_feistel_apply.md, "Laws of an application", and 43_cycle_walk.md, "The
controller"). -/
def Obligations.WalkInvKept : Prop :=
  ∀ s t : State, WalkInv s → step s = .next t → WalkInv t

/-- Whatever the order of the agents' steps, the step that ends a command with success leaves the result the spec gives it, and
the one that ends a walk at its cap leaves `WALK_LIMIT` (derived from 42_feistel_apply.md, "Laws of an application", and
43_cycle_walk.md, "The controller"). -/
def Obligations.FinishedCommandIsRight : Prop :=
  ∀ s t : State, WalkInv s → s.status.busy = true → step s = .next t → t.status.busy = false → s.nextEvent ≠ .reset →
    (t.status.done = true ∧ t.status.err = false ∧
      (s.op = .precompute → TripleOfN t ∧ t.status.preValid = true ∧ t.result = s.result ∧ t.wcount = s.wcount) ∧
      (s.op = .encode → t.result = s.network.encode s.index ∧ t.wcount = 1) ∧
      (s.op = .decode → t.result = s.network.decode s.index ∧ t.wcount = 1) ∧
      (s.op = .permute → WalksTo s.network.encode s.n s.index t.wcount.toNat t.result) ∧
      (s.op = .invert → WalksTo s.network.decode s.n s.index t.wcount.toNat t.result) ∧
      (s.op = .roundf → t.result = roundF (s.index &&& s.rmask) (s.key s.rnd) s.rmask ∧ t.wcount = s.wcount)) ∨
    (t.status.done = false ∧ t.status.err = true ∧ t.status.errCode = 6 ∧ t.result = s.result ∧ s.wlimit ≠ 0 ∧
      t.wcount = s.wlimit ∧
      ((s.op = .permute ∧ Misses s.network.encode s.n s.index s.wlimit.toNat) ∨
        (s.op = .invert ∧ Misses s.network.decode s.n s.index s.wlimit.toNat)))

/-! ## Laws of the permutation -/

/-- Encode and decode are mutually inverse on the superset domain, into which they map (derived from 42_feistel_apply.md,
"Inversion" and "Widths", the spec's own inferences). -/
def Obligations.EncodeDecodeInverse : Prop :=
  ∀ p : Network, p.WellFormed → ∀ x : Word, x.toNat < 4 ^ p.h →
    p.decode (p.encode x) = x ∧ p.encode (p.decode x) = x ∧
    (p.encode x).toNat < 4 ^ p.h ∧ (p.decode x).toNat < 4 ^ p.h

/-- The closed form of encode and decode, the square of encode, and how the two differ: by `c0 ^ c1 ^ c2` in both halves, so they
agree where that is 0 (derived from 42_feistel_apply.md, "Closed form", the spec's own inference). -/
def Obligations.ApplicationClosedForm : Prop :=
  ∀ p : Network, p.WellFormed → ∀ c0 c1 c2 x l r : Word,
    c0 = keyDigest p.key0 &&& p.rmask → c1 = keyDigest p.key1 &&& p.rmask → c2 = keyDigest p.key2 &&& p.rmask →
    l = (x &&& p.lmask) >>> p.h → r = x &&& p.rmask →
    p.encode x = ((r ^^^ c1) <<< p.h) ||| (l ^^^ c0 ^^^ c2) ∧
    p.decode x = ((r ^^^ c0 ^^^ c2) <<< p.h) ||| (l ^^^ c1) ∧
    (x.toNat < 4 ^ p.h →
      p.encode (p.encode x) = x ^^^ (((c0 ^^^ c1 ^^^ c2) <<< p.h) ||| (c0 ^^^ c1 ^^^ c2))) ∧
    p.decode x = p.encode x ^^^ (((c0 ^^^ c1 ^^^ c2) <<< p.h) ||| (c0 ^^^ c1 ^^^ c2))

/-- Every walk from inside `[0, N)` lands within `4^h - N + 1` applications, and within 4 (derived from 43_cycle_walk.md,
"Termination" and "The walk with the closed form", the spec's own inferences). -/
def Obligations.WalkTerminates : Prop :=
  ∀ (p : Network) (n x : Word), p.WellFormed → n.toNat ≤ 4 ^ p.h → x < n →
    (∃ k y, WalksTo p.encode n x k y ∧ k ≤ 4 ∧ k ≤ 4 ^ p.h - n.toNat + 1) ∧
    (∃ k y, WalksTo p.decode n x k y ∧ k ≤ 4 ∧ k ≤ 4 ^ p.h - n.toNat + 1)

/-- The walk of encode is a bijection of `[0, N)` and the walk of decode is its inverse (derived from 43_cycle_walk.md, "Bijection
and inversion", the spec's own inference). -/
def Obligations.WalkIsBijection : Prop :=
  ∀ (p : Network) (n : Word), p.WellFormed → 1 ≤ n.toNat → n.toNat ≤ 4 ^ p.h →
    (∀ x < n, ∃! y, ∃ k, WalksTo p.encode n x k y) ∧
    (∀ y < n, ∃! x, x < n ∧ ∃ k, WalksTo p.encode n x k y) ∧
    (∀ x y : Word, ∀ k, x < n → WalksTo p.encode n x k y → WalksTo p.decode n y k x) ∧
    (∀ x y : Word, ∀ k, x < n → WalksTo p.decode n x k y → WalksTo p.encode n y k x)

/-- Powers of 4 need one application, and `N = 1` gives 0: the superset `[0, 4^h)` of the half width of `N` is `[0, N)` exactly when
`N` is a power of 4 other than 1, and then every result of an application is below `N` (derived from 43_cycle_walk.md, "The
controller", and 40_precompute.md, "Small domains", the spec's own inferences). -/
def Obligations.PowerOfFourWalksOnce : Prop :=
  (∀ n : Word, 4 ^ halfBits n = n.toNat ↔ ∃ m, 1 ≤ m ∧ n.toNat = 4 ^ m) ∧
  (∀ (p : Network) (n : Word) (m : Nat), p.WellFormed → p.h = halfBits n → 1 ≤ m → n.toNat = 4 ^ m →
    (∀ x : Word, p.encode x < n ∧ p.decode x < n) ∧
    (∀ x < n, WalksTo p.encode n x 1 (p.encode x) ∧ WalksTo p.decode n x 1 (p.decode x))) ∧
  (∀ (p : Network) (x : Word), p.WellFormed → x < 1 →
    x = 0 ∧ ∀ k y, WalksTo p.encode 1 x k y ∨ WalksTo p.decode 1 x k y → y = 0 ∧ k ≤ 4)

/-! ## Whole commands -/

/-- ENCODE and DECODE from accept to end, without waiting: 8 engine steps and 3 responses leave the result, `WCOUNT = 1`, `DONE`,
and the three messages in key order (derived from 42_feistel_apply.md, "Commands" and "Laws of an application", and
70_reset_and_hazards.md, "Timing"). -/
def Obligations.ApplicationRunsToEnd : Prop :=
  ∀ (s t : State) (op : Opcode), s.status.busy = false → s.hp = .empty →
    (op = .encode ∧ exec .encode s = .next t) ∨ (op = .decode ∧ exec .decode s = .next t) → t.status.busy = true →
    ∃ t' : State,
      Sys2Proof.core.run 11 (t.withInputs applicationEvents) = Host.Outcome.next t' ∧
      t'.result = (if op = .encode then s.network.encode s.index else s.network.decode s.index) ∧
      t'.wcount = 1 ∧ t'.ph = .idle ∧ t'.hp = .empty ∧
      t'.status = { s.status with done := true, err := false, busy := false } ∧
      t'.sent = (if op = .encode then [msg 0 s.key2, msg 0 s.key1, msg 0 s.key0]
        else [msg 0 s.key0, msg 0 s.key1, msg 0 s.key2]) ++ s.sent ∧
      t'.n = s.n ∧ t'.index = s.index ∧ t'.key0 = s.key0 ∧ t'.key1 = s.key1 ∧ t'.key2 = s.key2 ∧ t'.ie = s.ie ∧
      t'.lmask = s.lmask ∧ t'.rmask = s.rmask ∧ t'.hbits = s.hbits ∧ t'.wlimit = s.wlimit ∧ t'.raised = s.raised

/-- ROUNDF and PRECOMPUTE from accept to end: one request, one response and one completion; one precompute step (derived from
41_round_function.md, "ROUNDF command", and 40_precompute.md, PRECOMPUTE). -/
def Obligations.RoundfAndPrecomputeRunToEnd : Prop :=
  (∀ (s t : State) (k : Fin 3), s.status.busy = false → s.hp = .empty →
    exec (.roundf (BitVec.ofNat 2 k.val)) s = .next t → t.status.busy = true →
    ∃ t' : State,
      Sys2Proof.core.run 3 (t.withInputs [.engine true, .hashResponse, .engine true]) = Host.Outcome.next t' ∧
      t'.result = roundF (s.index &&& s.rmask) (s.key k) s.rmask ∧ t'.wcount = s.wcount ∧ t'.ph = .idle ∧
      t'.status = { s.status with done := true, err := false, busy := false } ∧
      t'.sent = msg (s.index &&& s.rmask) (s.key k) :: s.sent ∧ t'.raised = s.raised) ∧
  (∀ s t : State, s.status.busy = false → exec .precompute s = .next t → t.status.busy = true →
    ∃ t' : State,
      Sys2Proof.core.run 1 (t.withInputs [.engine true]) = Host.Outcome.next t' ∧
      TripleOfN t' ∧ t'.n = s.n ∧ t'.result = s.result ∧ t'.wcount = s.wcount ∧ t'.ph = .idle ∧
      t'.status = { s.status with done := true, err := false, busy := false, preValid := true } ∧
      t'.sent = s.sent ∧ t'.raised = s.raised)

/-- PERMUTE and INVERT without a cap, from accept to end, over every list of coming events without a reset, the host's transactions
and idle turns among them: with `k` the applications until the first lands below `N`, at most 4, the command ends once the list has
held `8k` enabled engine steps, in a state with that result and `WCOUNT = k`, after `3k` responses and `3k` requests. The strict
alternation `fairTurns`, one list among them, holds that many (derived from 43_cycle_walk.md, "The controller", and
70_reset_and_hazards.md, "Timing"; the list of coming events is the model's, logs 1, 15). -/
def Obligations.UncappedWalkRunsToEnd : Prop :=
  ∀ (s t : State) (f : Word → Word), WalkInv s → s.status.busy = false → s.wlimit = 0 →
    (exec .permute s = .next t ∧ f = s.network.encode) ∨ (exec .invert s = .next t ∧ f = s.network.decode) →
    t.status.busy = true →
    (∃ k y, WalksTo f s.n s.index k y ∧ k ≤ 4 ∧ 8 * k ≤ engineSteps (16 * k) (t.withInputs (fairTurns (8 * k)))) ∧
    ∀ (k : Nat) (y : Word) (es : List Event), WalksTo f s.n s.index k y → .reset ∉ es →
      8 * k ≤ engineSteps es.length (t.withInputs es) →
      ∃ (j : Nat) (t' : State), j ≤ es.length ∧ Sys2Proof.core.run j (t.withInputs es) = Host.Outcome.next t' ∧
        engineSteps j (t.withInputs es) = 8 * k ∧ hashSteps j (t.withInputs es) = 3 * k ∧
        t'.result = y ∧ t'.wcount.toNat = k ∧ t'.sent.length = s.sent.length + 3 * k ∧ t'.raised = s.raised ∧
        t'.status = { s.status with done := true, err := false, busy := false, rej := t'.status.rej } ∧
        t'.n = s.n ∧ t'.index = s.index ∧ t'.network = s.network

/-- PERMUTE and INVERT with the cap `WLIMIT > 0`, over every list of coming events without a reset: success where the walk lands within
the cap, else `WALK_LIMIT` after exactly `WLIMIT` applications with `RESULT` unchanged; 8 enabled engine steps, 3 responses and 3
requests each application. The strict alternation `fairTurns` holds that many (derived from 43_cycle_walk.md, the walk limit, and
70_reset_and_hazards.md, "Timing"; the list of coming events is the model's, logs 1, 15). -/
def Obligations.CappedWalkRunsToEnd : Prop :=
  ∀ (s t : State) (f : Word → Word), WalkInv s → s.status.busy = false → s.wlimit ≠ 0 →
    (exec .permute s = .next t ∧ f = s.network.encode) ∨ (exec .invert s = .next t ∧ f = s.network.decode) →
    t.status.busy = true →
    (∃ k, k ≤ 4 ∧ 8 * k ≤ engineSteps (16 * k) (t.withInputs (fairTurns (8 * k))) ∧
      ((k ≤ s.wlimit.toNat ∧ ∃ y, WalksTo f s.n s.index k y) ∨ (k = s.wlimit.toNat ∧ Misses f s.n s.index k))) ∧
    (∀ (k : Nat) (y : Word) (es : List Event), WalksTo f s.n s.index k y → k ≤ s.wlimit.toNat → .reset ∉ es →
      8 * k ≤ engineSteps es.length (t.withInputs es) →
      ∃ (j : Nat) (t' : State), j ≤ es.length ∧ Sys2Proof.core.run j (t.withInputs es) = Host.Outcome.next t' ∧
        engineSteps j (t.withInputs es) = 8 * k ∧ hashSteps j (t.withInputs es) = 3 * k ∧
        t'.result = y ∧ t'.wcount.toNat = k ∧ t'.sent.length = s.sent.length + 3 * k ∧ t'.raised = s.raised ∧
        t'.status = { s.status with done := true, err := false, busy := false, rej := t'.status.rej }) ∧
    (∀ es : List Event, Misses f s.n s.index s.wlimit.toNat → .reset ∉ es →
      8 * s.wlimit.toNat ≤ engineSteps es.length (t.withInputs es) →
      ∃ (j : Nat) (t' : State), j ≤ es.length ∧ Sys2Proof.core.run j (t.withInputs es) = Host.Outcome.next t' ∧
        engineSteps j (t.withInputs es) = 8 * s.wlimit.toNat ∧ hashSteps j (t.withInputs es) = 3 * s.wlimit.toNat ∧
        t'.result = s.result ∧ t'.wcount = s.wlimit ∧ t'.sent.length = s.sent.length + 3 * s.wlimit.toNat ∧
        t'.raised = .walkLimit :: s.raised ∧
        t'.status = { s.status with err := true, errCode := 6, done := false, busy := false, rej := t'.status.rej })

/-- Every running command ends, in every order of the agents' steps that is weakly fair to the engine and to the hash, however often
the host polls `STATUS` or writes in between; without the assumption on the hash it may run forever (derived from
70_reset_and_hazards.md, "Timing", and 41_round_function.md, "Hash port"; fairness is a premise on the events, logs 15, 24). In
parts: no command is still running after 32 enabled engine steps or 13 responses; it ends in every weakly fair run; while the
response never comes, or `hreq_ready` is never 1, `BUSY` stays 1 until reset; and 33 turns of strict alternation, one fair list of
events, suffice. -/
def Obligations.RunningCommandEnds : Prop :=
  (∀ (s : State) (k : Nat), WalkInv s →
    (∀ j t, j ≤ k → Sys2Proof.core.run j s = Host.Outcome.next t → t.status.busy = true) →
    engineSteps k s < 32 ∧ hashSteps k s ≤ 12) ∧
  (∀ (ev : Nat → Event) (st : Nat → State), IsRun ev st → WalkInv (st 0) → (st 0).status.busy = true →
    EngineFair ev st → HashReady ev st → HashAnswers ev st → ∃ k, (st k).status.busy = false) ∧
  (∀ (ev : Nat → Event) (st : Nat → State), IsRun ev st → (st 0).status.busy = true → (∀ k, ev k ≠ .reset) →
    ((st 0).ph = .hwait ∧ (∃ m, (st 0).hp = .pending m) ∧ ∀ k, ev k ≠ .hashResponse) ∨
      ((st 0).ph = .hreq ∧ ∀ k, ev k ≠ .engine true) →
    ∀ k, (st k).status.busy = true ∧ (st k).ph = (st 0).ph) ∧
  (∀ s : State, WalkInv s → s.status.busy = true →
    ∃ t : State, Sys2Proof.core.run 66 (s.withInputs (fairTurns 33)) = Host.Outcome.next t ∧ t.status.busy = false)

/-! ## Rules over all steps -/

/-- 60_exceptions.md R250: a step that raises an error records it in `STATUS` and in the ghost log, ends the command, and changes
none of the registers the rule names; the ghost log loses nothing. -/
def Obligations.ErrorsAreRecorded : Prop :=
  ∀ s t : State, step s = .next t →
    t.raised = s.raised ∨
    ∃ e : ErrorKind, t.raised = e :: s.raised ∧
      t.status.err = true ∧ t.status.errCode = e.code ∧ t.status.done = false ∧ t.status.busy = false ∧ t.ph = .idle ∧
      t.n = s.n ∧ t.index = s.index ∧ t.key0 = s.key0 ∧ t.key1 = s.key1 ∧ t.key2 = s.key2 ∧ t.ie = s.ie ∧
      t.wlimit = s.wlimit ∧ t.lmask = s.lmask ∧ t.rmask = s.rmask ∧ t.hbits = s.hbits ∧
      t.status.preValid = s.status.preValid ∧ t.status.kv0 = s.status.kv0 ∧ t.status.kv1 = s.status.kv1 ∧
      t.status.kv2 = s.status.kv2 ∧ t.result = s.result

/-- 60_exceptions.md R253: errors do not nest, `ERRCODE` keeps the first code, and only CLEAR returns from an error. -/
def Obligations.ErrorsDoNotNest : Prop :=
  ∀ s t : State, StatusInv s → s.status.err = true → s.nextEvent ≠ .reset → step s = .next t →
    t.raised = s.raised ∧ t.status.busy = false ∧
    (t.status.err = true → t.status.errCode = s.status.errCode) ∧
    (t.status.err = false → s.fetchWord = some 0x7#64 ∧
      t.status = { s.status with done := false, err := false, errCode := 0, rej := false })

/-- 60_exceptions.md R254: a drop sets `REJ` and nothing else: no error, no interrupt, no register. -/
def Obligations.DropIsNoError : Prop :=
  ∀ s t : State, s.status.rej = false → step s = .next t → t.status.rej = true →
    t = { s with
          status := { s.status with rej := true }
          inputs := t.inputs
          turn := t.turn
          resp := some { rdata := 0, err := false } } ∧
    t.irq = s.irq

/-- 44_control.md R235: while a command runs no transaction of the host changes anything of it; all it can change are `CFG.IE` and
`REJ`. -/
def Obligations.HostCannotStopCommand : Prop :=
  ∀ (s t : State) (tr : BusTransaction), s.status.busy = true → perform (.host tr) s = .next t →
    t = { s with ie := t.ie, status := { s.status with rej := t.status.rej }, resp := t.resp } ∧
    (s.status.rej = true → t.status.rej = true) ∧ t.resp.isSome = true

/-- 70_reset_and_hazards.md R294: the triple stays valid until `N` is written or reset, the keys until reset. -/
def Obligations.ValidityIsKept : Prop :=
  ∀ s t : State, step s = .next t →
    (s.status.preValid = true → t.status.preValid = false →
      s.nextEvent = .reset ∨ ∃ v, s.nextEvent = .host { we := true, off := 0x20#7, wdata := v }) ∧
    ((s.status.kv0 = true ∧ t.status.kv0 = false) ∨ (s.status.kv1 = true ∧ t.status.kv1 = false) ∨
        (s.status.kv2 = true ∧ t.status.kv2 = false) → s.nextEvent = .reset)

/-- 10_state.md R37, R49: who writes `RESULT` and `WCOUNT`, when, and with what. -/
def Obligations.ResultAndCountWrittenAtEnd : Prop :=
  State.reset.result = 0 ∧ State.reset.wcount = 0 ∧
  ∀ s t : State, EngineInv s → s.nextEvent ≠ .reset → step s = .next t →
    (t.result ≠ s.result → s.status.busy = true ∧ t.status.busy = false ∧ t.status.done = true ∧
      (s.op.applies ∨ s.op = .roundf)) ∧
    (t.wcount ≠ s.wcount → s.ph = .check ∧ t.status.busy = false ∧ t.wcount = s.wc ∧ s.op.applies ∧
      (t.status.done = true ∨ t.status.errCode = 6)) ∧
    (s.ph = .check → t.status.busy = false → t.wcount = s.wc) ∧
    (s.status.busy = true → t.status.busy = false → t.status.done = true →
      (s.op.applies → t.result = s.u) ∧
      (s.op = .roundf → ∃ d, s.hp = .ready d ∧ t.result = reduce d &&& s.rmask))

/-- 60_exceptions.md R260: the level of `irq`, and the only steps that take it away. -/
def Obligations.IrqLevelAndClearing : Prop :=
  (∀ s : State, s.irq = true ↔ s.ie = true ∧ (s.status.done = true ∨ s.status.err = true)) ∧
  (∀ s t : State, StatusInv s → step s = .next t → s.irq = true → t.irq = false →
    s.nextEvent = .reset ∨ (∃ v, s.nextEvent = .host { we := true, off := 0x18#7, wdata := v } ∧ v.getLsbD 0 = false) ∨
      s.fetchWord = some 0x7#64 ∨ ((∃ w, s.fetchWord = some w) ∧ t.status.busy = true))

/-! ## Host programs -/

/-- `wait` reads `STATUS` and writes nothing, goes on while the value read has `BUSY = 1`, and ends in the first host step that reads
`BUSY = 0`; every other statement takes one transaction: its write, its read or its command word (derived from 30_encoding.md, "Host
program syntax"; that a host program is a layer over `step`, run by `hostTurn`, is the model's choice, log 16). -/
def Obligations.HostStatementsRun : Prop :=
  (∀ (rest : List HostStmt) (s : State),
    hostTurn (.wait :: rest) s = .next
      (if s.status.busy then .wait :: rest else rest,
        { s with resp := some { rdata := s.status.word, err := false } })) ∧
  (∀ (rest : List HostStmt) (s : State) (st : HostStmt), st ≠ .wait →
    ∃ t : State, hostTurn (st :: rest) s = .next (rest, t) ∧
      perform (.host
        (match st with
         | .write r imm => { we := true, off := r.offset, wdata := imm }
         | .read r => { we := false, off := r.offset, wdata := 0 }
         | .cmd i => { we := true, off := 0x08#7, wdata := encode i }
         | .wait => { we := false, off := 0x10#7, wdata := 0 }
         | .expect r _ => { we := false, off := r.offset, wdata := 0 })) { s with resp := none } = .next t)
end

