-- ==== Sys2Proof/Laws/State.lean ====
section
/-! SUPPORT. One lemma per field per update of the state, true by unfolding the update, so that no later proof unfolds it. -/

namespace Sys2Proof.Machine

/-! What `State.reject` writes, field by field. -/

@[simp] theorem reject_busy (s : State) : (s.reject).status.busy = s.status.busy := rfl
@[simp] theorem reject_done (s : State) : (s.reject).status.done = s.status.done := rfl
@[simp] theorem reject_err (s : State) : (s.reject).status.err = s.status.err := rfl
@[simp] theorem reject_rej (s : State) : (s.reject).status.rej = true := rfl
@[simp] theorem reject_preValid (s : State) : (s.reject).status.preValid = s.status.preValid := rfl
@[simp] theorem reject_kv0 (s : State) : (s.reject).status.kv0 = s.status.kv0 := rfl
@[simp] theorem reject_kv1 (s : State) : (s.reject).status.kv1 = s.status.kv1 := rfl
@[simp] theorem reject_kv2 (s : State) : (s.reject).status.kv2 = s.status.kv2 := rfl
@[simp] theorem reject_errCode (s : State) : (s.reject).status.errCode = s.status.errCode := rfl
@[simp] theorem reject_ie (s : State) : (s.reject).ie = s.ie := rfl
@[simp] theorem reject_n (s : State) : (s.reject).n = s.n := rfl
@[simp] theorem reject_index (s : State) : (s.reject).index = s.index := rfl
@[simp] theorem reject_result (s : State) : (s.reject).result = s.result := rfl
@[simp] theorem reject_key0 (s : State) : (s.reject).key0 = s.key0 := rfl
@[simp] theorem reject_key1 (s : State) : (s.reject).key1 = s.key1 := rfl
@[simp] theorem reject_key2 (s : State) : (s.reject).key2 = s.key2 := rfl
@[simp] theorem reject_lmask (s : State) : (s.reject).lmask = s.lmask := rfl
@[simp] theorem reject_rmask (s : State) : (s.reject).rmask = s.rmask := rfl
@[simp] theorem reject_hbits (s : State) : (s.reject).hbits = s.hbits := rfl
@[simp] theorem reject_wlimit (s : State) : (s.reject).wlimit = s.wlimit := rfl
@[simp] theorem reject_wcount (s : State) : (s.reject).wcount = s.wcount := rfl
@[simp] theorem reject_ph (s : State) : (s.reject).ph = s.ph := rfl
@[simp] theorem reject_op (s : State) : (s.reject).op = s.op := rfl
@[simp] theorem reject_rnd (s : State) : (s.reject).rnd = s.rnd := rfl
@[simp] theorem reject_wl (s : State) : (s.reject).wl = s.wl := rfl
@[simp] theorem reject_wr (s : State) : (s.reject).wr = s.wr := rfl
@[simp] theorem reject_u (s : State) : (s.reject).u = s.u := rfl
@[simp] theorem reject_wc (s : State) : (s.reject).wc = s.wc := rfl
@[simp] theorem reject_hp (s : State) : (s.reject).hp = s.hp := rfl
@[simp] theorem reject_inputs (s : State) : (s.reject).inputs = s.inputs := rfl
@[simp] theorem reject_turn (s : State) : (s.reject).turn = s.turn := rfl
@[simp] theorem reject_resp (s : State) : (s.reject).resp = s.resp := rfl
@[simp] theorem reject_raised (s : State) : (s.reject).raised = s.raised := rfl
@[simp] theorem reject_sent (s : State) : (s.reject).sent = s.sent := rfl

/-! What `State.raise` writes, field by field. -/

@[simp] theorem raise_busy (e : ErrorKind) (s : State) : (s.raise e).status.busy = false := rfl
@[simp] theorem raise_done (e : ErrorKind) (s : State) : (s.raise e).status.done = false := rfl
@[simp] theorem raise_err (e : ErrorKind) (s : State) : (s.raise e).status.err = true := rfl
@[simp] theorem raise_rej (e : ErrorKind) (s : State) : (s.raise e).status.rej = s.status.rej := rfl
@[simp] theorem raise_preValid (e : ErrorKind) (s : State) : (s.raise e).status.preValid = s.status.preValid := rfl
@[simp] theorem raise_kv0 (e : ErrorKind) (s : State) : (s.raise e).status.kv0 = s.status.kv0 := rfl
@[simp] theorem raise_kv1 (e : ErrorKind) (s : State) : (s.raise e).status.kv1 = s.status.kv1 := rfl
@[simp] theorem raise_kv2 (e : ErrorKind) (s : State) : (s.raise e).status.kv2 = s.status.kv2 := rfl
@[simp] theorem raise_errCode (e : ErrorKind) (s : State) : (s.raise e).status.errCode = e.code := rfl
@[simp] theorem raise_ie (e : ErrorKind) (s : State) : (s.raise e).ie = s.ie := rfl
@[simp] theorem raise_n (e : ErrorKind) (s : State) : (s.raise e).n = s.n := rfl
@[simp] theorem raise_index (e : ErrorKind) (s : State) : (s.raise e).index = s.index := rfl
@[simp] theorem raise_result (e : ErrorKind) (s : State) : (s.raise e).result = s.result := rfl
@[simp] theorem raise_key0 (e : ErrorKind) (s : State) : (s.raise e).key0 = s.key0 := rfl
@[simp] theorem raise_key1 (e : ErrorKind) (s : State) : (s.raise e).key1 = s.key1 := rfl
@[simp] theorem raise_key2 (e : ErrorKind) (s : State) : (s.raise e).key2 = s.key2 := rfl
@[simp] theorem raise_lmask (e : ErrorKind) (s : State) : (s.raise e).lmask = s.lmask := rfl
@[simp] theorem raise_rmask (e : ErrorKind) (s : State) : (s.raise e).rmask = s.rmask := rfl
@[simp] theorem raise_hbits (e : ErrorKind) (s : State) : (s.raise e).hbits = s.hbits := rfl
@[simp] theorem raise_wlimit (e : ErrorKind) (s : State) : (s.raise e).wlimit = s.wlimit := rfl
@[simp] theorem raise_wcount (e : ErrorKind) (s : State) : (s.raise e).wcount = s.wcount := rfl
@[simp] theorem raise_ph (e : ErrorKind) (s : State) : (s.raise e).ph = .idle := rfl
@[simp] theorem raise_op (e : ErrorKind) (s : State) : (s.raise e).op = s.op := rfl
@[simp] theorem raise_rnd (e : ErrorKind) (s : State) : (s.raise e).rnd = s.rnd := rfl
@[simp] theorem raise_wl (e : ErrorKind) (s : State) : (s.raise e).wl = s.wl := rfl
@[simp] theorem raise_wr (e : ErrorKind) (s : State) : (s.raise e).wr = s.wr := rfl
@[simp] theorem raise_u (e : ErrorKind) (s : State) : (s.raise e).u = s.u := rfl
@[simp] theorem raise_wc (e : ErrorKind) (s : State) : (s.raise e).wc = s.wc := rfl
@[simp] theorem raise_hp (e : ErrorKind) (s : State) : (s.raise e).hp = s.hp := rfl
@[simp] theorem raise_inputs (e : ErrorKind) (s : State) : (s.raise e).inputs = s.inputs := rfl
@[simp] theorem raise_turn (e : ErrorKind) (s : State) : (s.raise e).turn = s.turn := rfl
@[simp] theorem raise_resp (e : ErrorKind) (s : State) : (s.raise e).resp = s.resp := rfl
@[simp] theorem raise_raised (e : ErrorKind) (s : State) : (s.raise e).raised = e :: s.raised := rfl
@[simp] theorem raise_sent (e : ErrorKind) (s : State) : (s.raise e).sent = s.sent := rfl

/-! What `State.clear` writes, field by field. -/

@[simp] theorem clear_busy (s : State) : (s.clear).status.busy = s.status.busy := rfl
@[simp] theorem clear_done (s : State) : (s.clear).status.done = false := rfl
@[simp] theorem clear_err (s : State) : (s.clear).status.err = false := rfl
@[simp] theorem clear_rej (s : State) : (s.clear).status.rej = false := rfl
@[simp] theorem clear_preValid (s : State) : (s.clear).status.preValid = s.status.preValid := rfl
@[simp] theorem clear_kv0 (s : State) : (s.clear).status.kv0 = s.status.kv0 := rfl
@[simp] theorem clear_kv1 (s : State) : (s.clear).status.kv1 = s.status.kv1 := rfl
@[simp] theorem clear_kv2 (s : State) : (s.clear).status.kv2 = s.status.kv2 := rfl
@[simp] theorem clear_errCode (s : State) : (s.clear).status.errCode = 0 := rfl
@[simp] theorem clear_ie (s : State) : (s.clear).ie = s.ie := rfl
@[simp] theorem clear_n (s : State) : (s.clear).n = s.n := rfl
@[simp] theorem clear_index (s : State) : (s.clear).index = s.index := rfl
@[simp] theorem clear_result (s : State) : (s.clear).result = s.result := rfl
@[simp] theorem clear_key0 (s : State) : (s.clear).key0 = s.key0 := rfl
@[simp] theorem clear_key1 (s : State) : (s.clear).key1 = s.key1 := rfl
@[simp] theorem clear_key2 (s : State) : (s.clear).key2 = s.key2 := rfl
@[simp] theorem clear_lmask (s : State) : (s.clear).lmask = s.lmask := rfl
@[simp] theorem clear_rmask (s : State) : (s.clear).rmask = s.rmask := rfl
@[simp] theorem clear_hbits (s : State) : (s.clear).hbits = s.hbits := rfl
@[simp] theorem clear_wlimit (s : State) : (s.clear).wlimit = s.wlimit := rfl
@[simp] theorem clear_wcount (s : State) : (s.clear).wcount = s.wcount := rfl
@[simp] theorem clear_ph (s : State) : (s.clear).ph = s.ph := rfl
@[simp] theorem clear_op (s : State) : (s.clear).op = s.op := rfl
@[simp] theorem clear_rnd (s : State) : (s.clear).rnd = s.rnd := rfl
@[simp] theorem clear_wl (s : State) : (s.clear).wl = s.wl := rfl
@[simp] theorem clear_wr (s : State) : (s.clear).wr = s.wr := rfl
@[simp] theorem clear_u (s : State) : (s.clear).u = s.u := rfl
@[simp] theorem clear_wc (s : State) : (s.clear).wc = s.wc := rfl
@[simp] theorem clear_hp (s : State) : (s.clear).hp = s.hp := rfl
@[simp] theorem clear_inputs (s : State) : (s.clear).inputs = s.inputs := rfl
@[simp] theorem clear_turn (s : State) : (s.clear).turn = s.turn := rfl
@[simp] theorem clear_resp (s : State) : (s.clear).resp = s.resp := rfl
@[simp] theorem clear_raised (s : State) : (s.clear).raised = s.raised := rfl
@[simp] theorem clear_sent (s : State) : (s.clear).sent = s.sent := rfl

/-! What `State.start` writes, field by field. -/

@[simp] theorem start_busy (op : Opcode) (ph : Phase) (s : State) : (s.start op ph).status.busy = true := rfl
@[simp] theorem start_done (op : Opcode) (ph : Phase) (s : State) : (s.start op ph).status.done = false := rfl
@[simp] theorem start_err (op : Opcode) (ph : Phase) (s : State) : (s.start op ph).status.err = s.status.err := rfl
@[simp] theorem start_rej (op : Opcode) (ph : Phase) (s : State) : (s.start op ph).status.rej = s.status.rej := rfl
@[simp] theorem start_preValid (op : Opcode) (ph : Phase) (s : State) : (s.start op ph).status.preValid = s.status.preValid := rfl
@[simp] theorem start_kv0 (op : Opcode) (ph : Phase) (s : State) : (s.start op ph).status.kv0 = s.status.kv0 := rfl
@[simp] theorem start_kv1 (op : Opcode) (ph : Phase) (s : State) : (s.start op ph).status.kv1 = s.status.kv1 := rfl
@[simp] theorem start_kv2 (op : Opcode) (ph : Phase) (s : State) : (s.start op ph).status.kv2 = s.status.kv2 := rfl
@[simp] theorem start_errCode (op : Opcode) (ph : Phase) (s : State) : (s.start op ph).status.errCode = s.status.errCode := rfl
@[simp] theorem start_ie (op : Opcode) (ph : Phase) (s : State) : (s.start op ph).ie = s.ie := rfl
@[simp] theorem start_n (op : Opcode) (ph : Phase) (s : State) : (s.start op ph).n = s.n := rfl
@[simp] theorem start_index (op : Opcode) (ph : Phase) (s : State) : (s.start op ph).index = s.index := rfl
@[simp] theorem start_result (op : Opcode) (ph : Phase) (s : State) : (s.start op ph).result = s.result := rfl
@[simp] theorem start_key0 (op : Opcode) (ph : Phase) (s : State) : (s.start op ph).key0 = s.key0 := rfl
@[simp] theorem start_key1 (op : Opcode) (ph : Phase) (s : State) : (s.start op ph).key1 = s.key1 := rfl
@[simp] theorem start_key2 (op : Opcode) (ph : Phase) (s : State) : (s.start op ph).key2 = s.key2 := rfl
@[simp] theorem start_lmask (op : Opcode) (ph : Phase) (s : State) : (s.start op ph).lmask = s.lmask := rfl
@[simp] theorem start_rmask (op : Opcode) (ph : Phase) (s : State) : (s.start op ph).rmask = s.rmask := rfl
@[simp] theorem start_hbits (op : Opcode) (ph : Phase) (s : State) : (s.start op ph).hbits = s.hbits := rfl
@[simp] theorem start_wlimit (op : Opcode) (ph : Phase) (s : State) : (s.start op ph).wlimit = s.wlimit := rfl
@[simp] theorem start_wcount (op : Opcode) (ph : Phase) (s : State) : (s.start op ph).wcount = s.wcount := rfl
@[simp] theorem start_ph (op : Opcode) (ph : Phase) (s : State) : (s.start op ph).ph = ph := rfl
@[simp] theorem start_op (op : Opcode) (ph : Phase) (s : State) : (s.start op ph).op = op := rfl
@[simp] theorem start_rnd (op : Opcode) (ph : Phase) (s : State) : (s.start op ph).rnd = s.rnd := rfl
@[simp] theorem start_wl (op : Opcode) (ph : Phase) (s : State) : (s.start op ph).wl = s.wl := rfl
@[simp] theorem start_wr (op : Opcode) (ph : Phase) (s : State) : (s.start op ph).wr = s.wr := rfl
@[simp] theorem start_u (op : Opcode) (ph : Phase) (s : State) : (s.start op ph).u = s.u := rfl
@[simp] theorem start_wc (op : Opcode) (ph : Phase) (s : State) : (s.start op ph).wc = s.wc := rfl
@[simp] theorem start_hp (op : Opcode) (ph : Phase) (s : State) : (s.start op ph).hp = s.hp := rfl
@[simp] theorem start_inputs (op : Opcode) (ph : Phase) (s : State) : (s.start op ph).inputs = s.inputs := rfl
@[simp] theorem start_turn (op : Opcode) (ph : Phase) (s : State) : (s.start op ph).turn = s.turn := rfl
@[simp] theorem start_resp (op : Opcode) (ph : Phase) (s : State) : (s.start op ph).resp = s.resp := rfl
@[simp] theorem start_raised (op : Opcode) (ph : Phase) (s : State) : (s.start op ph).raised = s.raised := rfl
@[simp] theorem start_sent (op : Opcode) (ph : Phase) (s : State) : (s.start op ph).sent = s.sent := rfl

/-! What `State.startFromIndex` writes, field by field. -/

@[simp] theorem startFromIndex_busy (op : Opcode) (s : State) : (s.startFromIndex op).status.busy = true := rfl
@[simp] theorem startFromIndex_done (op : Opcode) (s : State) : (s.startFromIndex op).status.done = false := rfl
@[simp] theorem startFromIndex_err (op : Opcode) (s : State) : (s.startFromIndex op).status.err = s.status.err := rfl
@[simp] theorem startFromIndex_rej (op : Opcode) (s : State) : (s.startFromIndex op).status.rej = s.status.rej := rfl
@[simp] theorem startFromIndex_preValid (op : Opcode) (s : State) : (s.startFromIndex op).status.preValid = s.status.preValid := rfl
@[simp] theorem startFromIndex_kv0 (op : Opcode) (s : State) : (s.startFromIndex op).status.kv0 = s.status.kv0 := rfl
@[simp] theorem startFromIndex_kv1 (op : Opcode) (s : State) : (s.startFromIndex op).status.kv1 = s.status.kv1 := rfl
@[simp] theorem startFromIndex_kv2 (op : Opcode) (s : State) : (s.startFromIndex op).status.kv2 = s.status.kv2 := rfl
@[simp] theorem startFromIndex_errCode (op : Opcode) (s : State) : (s.startFromIndex op).status.errCode = s.status.errCode := rfl
@[simp] theorem startFromIndex_ie (op : Opcode) (s : State) : (s.startFromIndex op).ie = s.ie := rfl
@[simp] theorem startFromIndex_n (op : Opcode) (s : State) : (s.startFromIndex op).n = s.n := rfl
@[simp] theorem startFromIndex_index (op : Opcode) (s : State) : (s.startFromIndex op).index = s.index := rfl
@[simp] theorem startFromIndex_result (op : Opcode) (s : State) : (s.startFromIndex op).result = s.result := rfl
@[simp] theorem startFromIndex_key0 (op : Opcode) (s : State) : (s.startFromIndex op).key0 = s.key0 := rfl
@[simp] theorem startFromIndex_key1 (op : Opcode) (s : State) : (s.startFromIndex op).key1 = s.key1 := rfl
@[simp] theorem startFromIndex_key2 (op : Opcode) (s : State) : (s.startFromIndex op).key2 = s.key2 := rfl
@[simp] theorem startFromIndex_lmask (op : Opcode) (s : State) : (s.startFromIndex op).lmask = s.lmask := rfl
@[simp] theorem startFromIndex_rmask (op : Opcode) (s : State) : (s.startFromIndex op).rmask = s.rmask := rfl
@[simp] theorem startFromIndex_hbits (op : Opcode) (s : State) : (s.startFromIndex op).hbits = s.hbits := rfl
@[simp] theorem startFromIndex_wlimit (op : Opcode) (s : State) : (s.startFromIndex op).wlimit = s.wlimit := rfl
@[simp] theorem startFromIndex_wcount (op : Opcode) (s : State) : (s.startFromIndex op).wcount = s.wcount := rfl
@[simp] theorem startFromIndex_ph (op : Opcode) (s : State) : (s.startFromIndex op).ph = .setup := rfl
@[simp] theorem startFromIndex_op (op : Opcode) (s : State) : (s.startFromIndex op).op = op := rfl
@[simp] theorem startFromIndex_rnd (op : Opcode) (s : State) : (s.startFromIndex op).rnd = s.rnd := rfl
@[simp] theorem startFromIndex_wl (op : Opcode) (s : State) : (s.startFromIndex op).wl = s.wl := rfl
@[simp] theorem startFromIndex_wr (op : Opcode) (s : State) : (s.startFromIndex op).wr = s.wr := rfl
@[simp] theorem startFromIndex_u (op : Opcode) (s : State) : (s.startFromIndex op).u = s.index := rfl
@[simp] theorem startFromIndex_wc (op : Opcode) (s : State) : (s.startFromIndex op).wc = 0 := rfl
@[simp] theorem startFromIndex_hp (op : Opcode) (s : State) : (s.startFromIndex op).hp = s.hp := rfl
@[simp] theorem startFromIndex_inputs (op : Opcode) (s : State) : (s.startFromIndex op).inputs = s.inputs := rfl
@[simp] theorem startFromIndex_turn (op : Opcode) (s : State) : (s.startFromIndex op).turn = s.turn := rfl
@[simp] theorem startFromIndex_resp (op : Opcode) (s : State) : (s.startFromIndex op).resp = s.resp := rfl
@[simp] theorem startFromIndex_raised (op : Opcode) (s : State) : (s.startFromIndex op).raised = s.raised := rfl
@[simp] theorem startFromIndex_sent (op : Opcode) (s : State) : (s.startFromIndex op).sent = s.sent := rfl

/-! What `State.finish` writes, field by field. -/

@[simp] theorem finish_busy (s : State) : (s.finish).status.busy = false := rfl
@[simp] theorem finish_done (s : State) : (s.finish).status.done = true := rfl
@[simp] theorem finish_err (s : State) : (s.finish).status.err = s.status.err := rfl
@[simp] theorem finish_rej (s : State) : (s.finish).status.rej = s.status.rej := rfl
@[simp] theorem finish_preValid (s : State) : (s.finish).status.preValid = s.status.preValid := rfl
@[simp] theorem finish_kv0 (s : State) : (s.finish).status.kv0 = s.status.kv0 := rfl
@[simp] theorem finish_kv1 (s : State) : (s.finish).status.kv1 = s.status.kv1 := rfl
@[simp] theorem finish_kv2 (s : State) : (s.finish).status.kv2 = s.status.kv2 := rfl
@[simp] theorem finish_errCode (s : State) : (s.finish).status.errCode = s.status.errCode := rfl
@[simp] theorem finish_ie (s : State) : (s.finish).ie = s.ie := rfl
@[simp] theorem finish_n (s : State) : (s.finish).n = s.n := rfl
@[simp] theorem finish_index (s : State) : (s.finish).index = s.index := rfl
@[simp] theorem finish_result (s : State) : (s.finish).result = s.result := rfl
@[simp] theorem finish_key0 (s : State) : (s.finish).key0 = s.key0 := rfl
@[simp] theorem finish_key1 (s : State) : (s.finish).key1 = s.key1 := rfl
@[simp] theorem finish_key2 (s : State) : (s.finish).key2 = s.key2 := rfl
@[simp] theorem finish_lmask (s : State) : (s.finish).lmask = s.lmask := rfl
@[simp] theorem finish_rmask (s : State) : (s.finish).rmask = s.rmask := rfl
@[simp] theorem finish_hbits (s : State) : (s.finish).hbits = s.hbits := rfl
@[simp] theorem finish_wlimit (s : State) : (s.finish).wlimit = s.wlimit := rfl
@[simp] theorem finish_wcount (s : State) : (s.finish).wcount = s.wcount := rfl
@[simp] theorem finish_ph (s : State) : (s.finish).ph = .idle := rfl
@[simp] theorem finish_op (s : State) : (s.finish).op = s.op := rfl
@[simp] theorem finish_rnd (s : State) : (s.finish).rnd = s.rnd := rfl
@[simp] theorem finish_wl (s : State) : (s.finish).wl = s.wl := rfl
@[simp] theorem finish_wr (s : State) : (s.finish).wr = s.wr := rfl
@[simp] theorem finish_u (s : State) : (s.finish).u = s.u := rfl
@[simp] theorem finish_wc (s : State) : (s.finish).wc = s.wc := rfl
@[simp] theorem finish_hp (s : State) : (s.finish).hp = s.hp := rfl
@[simp] theorem finish_inputs (s : State) : (s.finish).inputs = s.inputs := rfl
@[simp] theorem finish_turn (s : State) : (s.finish).turn = s.turn := rfl
@[simp] theorem finish_resp (s : State) : (s.finish).resp = s.resp := rfl
@[simp] theorem finish_raised (s : State) : (s.finish).raised = s.raised := rfl
@[simp] theorem finish_sent (s : State) : (s.finish).sent = s.sent := rfl

/-! What `State.respond` writes, field by field. -/

@[simp] theorem respond_status (r : BusResponse) (s : State) : (s.respond r).status = s.status := rfl
@[simp] theorem respond_ie (r : BusResponse) (s : State) : (s.respond r).ie = s.ie := rfl
@[simp] theorem respond_n (r : BusResponse) (s : State) : (s.respond r).n = s.n := rfl
@[simp] theorem respond_index (r : BusResponse) (s : State) : (s.respond r).index = s.index := rfl
@[simp] theorem respond_result (r : BusResponse) (s : State) : (s.respond r).result = s.result := rfl
@[simp] theorem respond_key0 (r : BusResponse) (s : State) : (s.respond r).key0 = s.key0 := rfl
@[simp] theorem respond_key1 (r : BusResponse) (s : State) : (s.respond r).key1 = s.key1 := rfl
@[simp] theorem respond_key2 (r : BusResponse) (s : State) : (s.respond r).key2 = s.key2 := rfl
@[simp] theorem respond_lmask (r : BusResponse) (s : State) : (s.respond r).lmask = s.lmask := rfl
@[simp] theorem respond_rmask (r : BusResponse) (s : State) : (s.respond r).rmask = s.rmask := rfl
@[simp] theorem respond_hbits (r : BusResponse) (s : State) : (s.respond r).hbits = s.hbits := rfl
@[simp] theorem respond_wlimit (r : BusResponse) (s : State) : (s.respond r).wlimit = s.wlimit := rfl
@[simp] theorem respond_wcount (r : BusResponse) (s : State) : (s.respond r).wcount = s.wcount := rfl
@[simp] theorem respond_ph (r : BusResponse) (s : State) : (s.respond r).ph = s.ph := rfl
@[simp] theorem respond_op (r : BusResponse) (s : State) : (s.respond r).op = s.op := rfl
@[simp] theorem respond_rnd (r : BusResponse) (s : State) : (s.respond r).rnd = s.rnd := rfl
@[simp] theorem respond_wl (r : BusResponse) (s : State) : (s.respond r).wl = s.wl := rfl
@[simp] theorem respond_wr (r : BusResponse) (s : State) : (s.respond r).wr = s.wr := rfl
@[simp] theorem respond_u (r : BusResponse) (s : State) : (s.respond r).u = s.u := rfl
@[simp] theorem respond_wc (r : BusResponse) (s : State) : (s.respond r).wc = s.wc := rfl
@[simp] theorem respond_hp (r : BusResponse) (s : State) : (s.respond r).hp = s.hp := rfl
@[simp] theorem respond_inputs (r : BusResponse) (s : State) : (s.respond r).inputs = s.inputs := rfl
@[simp] theorem respond_turn (r : BusResponse) (s : State) : (s.respond r).turn = s.turn := rfl
@[simp] theorem respond_resp (r : BusResponse) (s : State) : (s.respond r).resp = some r := rfl
@[simp] theorem respond_raised (r : BusResponse) (s : State) : (s.respond r).raised = s.raised := rfl
@[simp] theorem respond_sent (r : BusResponse) (s : State) : (s.respond r).sent = s.sent := rfl

/-! What `precomputeStep` writes, field by field. -/

@[simp] theorem precomputeStep_busy (s : State) : (precomputeStep s).status.busy = false := rfl
@[simp] theorem precomputeStep_done (s : State) : (precomputeStep s).status.done = true := rfl
@[simp] theorem precomputeStep_err (s : State) : (precomputeStep s).status.err = s.status.err := rfl
@[simp] theorem precomputeStep_rej (s : State) : (precomputeStep s).status.rej = s.status.rej := rfl
@[simp] theorem precomputeStep_preValid (s : State) : (precomputeStep s).status.preValid = true := rfl
@[simp] theorem precomputeStep_kv0 (s : State) : (precomputeStep s).status.kv0 = s.status.kv0 := rfl
@[simp] theorem precomputeStep_kv1 (s : State) : (precomputeStep s).status.kv1 = s.status.kv1 := rfl
@[simp] theorem precomputeStep_kv2 (s : State) : (precomputeStep s).status.kv2 = s.status.kv2 := rfl
@[simp] theorem precomputeStep_errCode (s : State) : (precomputeStep s).status.errCode = s.status.errCode := rfl
@[simp] theorem precomputeStep_ie (s : State) : (precomputeStep s).ie = s.ie := rfl
@[simp] theorem precomputeStep_n (s : State) : (precomputeStep s).n = s.n := rfl
@[simp] theorem precomputeStep_index (s : State) : (precomputeStep s).index = s.index := rfl
@[simp] theorem precomputeStep_result (s : State) : (precomputeStep s).result = s.result := rfl
@[simp] theorem precomputeStep_key0 (s : State) : (precomputeStep s).key0 = s.key0 := rfl
@[simp] theorem precomputeStep_key1 (s : State) : (precomputeStep s).key1 = s.key1 := rfl
@[simp] theorem precomputeStep_key2 (s : State) : (precomputeStep s).key2 = s.key2 := rfl
@[simp] theorem precomputeStep_lmask (s : State) : (precomputeStep s).lmask = leftMask (halfBits s.n) := rfl
@[simp] theorem precomputeStep_rmask (s : State) : (precomputeStep s).rmask = rightMask (halfBits s.n) := rfl
@[simp] theorem precomputeStep_hbits (s : State) : (precomputeStep s).hbits = BitVec.ofNat 6 (halfBits s.n) := rfl
@[simp] theorem precomputeStep_wlimit (s : State) : (precomputeStep s).wlimit = s.wlimit := rfl
@[simp] theorem precomputeStep_wcount (s : State) : (precomputeStep s).wcount = s.wcount := rfl
@[simp] theorem precomputeStep_ph (s : State) : (precomputeStep s).ph = .idle := rfl
@[simp] theorem precomputeStep_op (s : State) : (precomputeStep s).op = s.op := rfl
@[simp] theorem precomputeStep_rnd (s : State) : (precomputeStep s).rnd = s.rnd := rfl
@[simp] theorem precomputeStep_wl (s : State) : (precomputeStep s).wl = s.wl := rfl
@[simp] theorem precomputeStep_wr (s : State) : (precomputeStep s).wr = s.wr := rfl
@[simp] theorem precomputeStep_u (s : State) : (precomputeStep s).u = s.u := rfl
@[simp] theorem precomputeStep_wc (s : State) : (precomputeStep s).wc = s.wc := rfl
@[simp] theorem precomputeStep_hp (s : State) : (precomputeStep s).hp = s.hp := rfl
@[simp] theorem precomputeStep_inputs (s : State) : (precomputeStep s).inputs = s.inputs := rfl
@[simp] theorem precomputeStep_turn (s : State) : (precomputeStep s).turn = s.turn := rfl
@[simp] theorem precomputeStep_resp (s : State) : (precomputeStep s).resp = s.resp := rfl
@[simp] theorem precomputeStep_raised (s : State) : (precomputeStep s).raised = s.raised := rfl
@[simp] theorem precomputeStep_sent (s : State) : (precomputeStep s).sent = s.sent := rfl

/-! What `setupStep` writes, field by field. -/

@[simp] theorem setupStep_status (s : State) : (setupStep s).status = s.status := rfl
@[simp] theorem setupStep_ie (s : State) : (setupStep s).ie = s.ie := rfl
@[simp] theorem setupStep_n (s : State) : (setupStep s).n = s.n := rfl
@[simp] theorem setupStep_index (s : State) : (setupStep s).index = s.index := rfl
@[simp] theorem setupStep_result (s : State) : (setupStep s).result = s.result := rfl
@[simp] theorem setupStep_key0 (s : State) : (setupStep s).key0 = s.key0 := rfl
@[simp] theorem setupStep_key1 (s : State) : (setupStep s).key1 = s.key1 := rfl
@[simp] theorem setupStep_key2 (s : State) : (setupStep s).key2 = s.key2 := rfl
@[simp] theorem setupStep_lmask (s : State) : (setupStep s).lmask = s.lmask := rfl
@[simp] theorem setupStep_rmask (s : State) : (setupStep s).rmask = s.rmask := rfl
@[simp] theorem setupStep_hbits (s : State) : (setupStep s).hbits = s.hbits := rfl
@[simp] theorem setupStep_wlimit (s : State) : (setupStep s).wlimit = s.wlimit := rfl
@[simp] theorem setupStep_wcount (s : State) : (setupStep s).wcount = s.wcount := rfl
@[simp] theorem setupStep_ph (s : State) : (setupStep s).ph = .hreq := rfl
@[simp] theorem setupStep_op (s : State) : (setupStep s).op = s.op := rfl
@[simp] theorem setupStep_rnd (s : State) : (setupStep s).rnd = if s.op.forward then 0 else 2 := rfl
@[simp] theorem setupStep_wl (s : State) : (setupStep s).wl = s.network.leftHalf s.u := rfl
@[simp] theorem setupStep_wr (s : State) : (setupStep s).wr = s.network.rightHalf s.u := rfl
@[simp] theorem setupStep_u (s : State) : (setupStep s).u = s.u := rfl
@[simp] theorem setupStep_wc (s : State) : (setupStep s).wc = s.wc := rfl
@[simp] theorem setupStep_hp (s : State) : (setupStep s).hp = s.hp := rfl
@[simp] theorem setupStep_inputs (s : State) : (setupStep s).inputs = s.inputs := rfl
@[simp] theorem setupStep_turn (s : State) : (setupStep s).turn = s.turn := rfl
@[simp] theorem setupStep_resp (s : State) : (setupStep s).resp = s.resp := rfl
@[simp] theorem setupStep_raised (s : State) : (setupStep s).raised = s.raised := rfl
@[simp] theorem setupStep_sent (s : State) : (setupStep s).sent = s.sent := rfl

/-! What `recombine` writes, field by field. -/

@[simp] theorem recombine_status (s : State) : (recombine s).status = s.status := rfl
@[simp] theorem recombine_ie (s : State) : (recombine s).ie = s.ie := rfl
@[simp] theorem recombine_n (s : State) : (recombine s).n = s.n := rfl
@[simp] theorem recombine_index (s : State) : (recombine s).index = s.index := rfl
@[simp] theorem recombine_result (s : State) : (recombine s).result = s.result := rfl
@[simp] theorem recombine_key0 (s : State) : (recombine s).key0 = s.key0 := rfl
@[simp] theorem recombine_key1 (s : State) : (recombine s).key1 = s.key1 := rfl
@[simp] theorem recombine_key2 (s : State) : (recombine s).key2 = s.key2 := rfl
@[simp] theorem recombine_lmask (s : State) : (recombine s).lmask = s.lmask := rfl
@[simp] theorem recombine_rmask (s : State) : (recombine s).rmask = s.rmask := rfl
@[simp] theorem recombine_hbits (s : State) : (recombine s).hbits = s.hbits := rfl
@[simp] theorem recombine_wlimit (s : State) : (recombine s).wlimit = s.wlimit := rfl
@[simp] theorem recombine_wcount (s : State) : (recombine s).wcount = s.wcount := rfl
@[simp] theorem recombine_ph (s : State) : (recombine s).ph = .check := rfl
@[simp] theorem recombine_op (s : State) : (recombine s).op = s.op := rfl
@[simp] theorem recombine_rnd (s : State) : (recombine s).rnd = s.rnd := rfl
@[simp] theorem recombine_wl (s : State) : (recombine s).wl = s.wl := rfl
@[simp] theorem recombine_wr (s : State) : (recombine s).wr = s.wr := rfl
@[simp] theorem recombine_u (s : State) : (recombine s).u = s.network.join (s.wl, s.wr) := rfl
@[simp] theorem recombine_wc (s : State) : (recombine s).wc = s.wc + 1 := rfl
@[simp] theorem recombine_hp (s : State) : (recombine s).hp = s.hp := rfl
@[simp] theorem recombine_inputs (s : State) : (recombine s).inputs = s.inputs := rfl
@[simp] theorem recombine_turn (s : State) : (recombine s).turn = s.turn := rfl
@[simp] theorem recombine_resp (s : State) : (recombine s).resp = s.resp := rfl
@[simp] theorem recombine_raised (s : State) : (recombine s).raised = s.raised := rfl
@[simp] theorem recombine_sent (s : State) : (recombine s).sent = s.sent := rfl

/-! What `finishRoundf` writes, field by field. -/

@[simp] theorem finishRoundf_busy (f : Word) (s : State) : (finishRoundf f s).status.busy = false := rfl
@[simp] theorem finishRoundf_done (f : Word) (s : State) : (finishRoundf f s).status.done = true := rfl
@[simp] theorem finishRoundf_err (f : Word) (s : State) : (finishRoundf f s).status.err = s.status.err := rfl
@[simp] theorem finishRoundf_rej (f : Word) (s : State) : (finishRoundf f s).status.rej = s.status.rej := rfl
@[simp] theorem finishRoundf_preValid (f : Word) (s : State) : (finishRoundf f s).status.preValid = s.status.preValid := rfl
@[simp] theorem finishRoundf_kv0 (f : Word) (s : State) : (finishRoundf f s).status.kv0 = s.status.kv0 := rfl
@[simp] theorem finishRoundf_kv1 (f : Word) (s : State) : (finishRoundf f s).status.kv1 = s.status.kv1 := rfl
@[simp] theorem finishRoundf_kv2 (f : Word) (s : State) : (finishRoundf f s).status.kv2 = s.status.kv2 := rfl
@[simp] theorem finishRoundf_errCode (f : Word) (s : State) : (finishRoundf f s).status.errCode = s.status.errCode := rfl
@[simp] theorem finishRoundf_ie (f : Word) (s : State) : (finishRoundf f s).ie = s.ie := rfl
@[simp] theorem finishRoundf_n (f : Word) (s : State) : (finishRoundf f s).n = s.n := rfl
@[simp] theorem finishRoundf_index (f : Word) (s : State) : (finishRoundf f s).index = s.index := rfl
@[simp] theorem finishRoundf_result (f : Word) (s : State) : (finishRoundf f s).result = f := rfl
@[simp] theorem finishRoundf_key0 (f : Word) (s : State) : (finishRoundf f s).key0 = s.key0 := rfl
@[simp] theorem finishRoundf_key1 (f : Word) (s : State) : (finishRoundf f s).key1 = s.key1 := rfl
@[simp] theorem finishRoundf_key2 (f : Word) (s : State) : (finishRoundf f s).key2 = s.key2 := rfl
@[simp] theorem finishRoundf_lmask (f : Word) (s : State) : (finishRoundf f s).lmask = s.lmask := rfl
@[simp] theorem finishRoundf_rmask (f : Word) (s : State) : (finishRoundf f s).rmask = s.rmask := rfl
@[simp] theorem finishRoundf_hbits (f : Word) (s : State) : (finishRoundf f s).hbits = s.hbits := rfl
@[simp] theorem finishRoundf_wlimit (f : Word) (s : State) : (finishRoundf f s).wlimit = s.wlimit := rfl
@[simp] theorem finishRoundf_wcount (f : Word) (s : State) : (finishRoundf f s).wcount = s.wcount := rfl
@[simp] theorem finishRoundf_ph (f : Word) (s : State) : (finishRoundf f s).ph = .idle := rfl
@[simp] theorem finishRoundf_op (f : Word) (s : State) : (finishRoundf f s).op = s.op := rfl
@[simp] theorem finishRoundf_rnd (f : Word) (s : State) : (finishRoundf f s).rnd = s.rnd := rfl
@[simp] theorem finishRoundf_wl (f : Word) (s : State) : (finishRoundf f s).wl = s.wl := rfl
@[simp] theorem finishRoundf_wr (f : Word) (s : State) : (finishRoundf f s).wr = s.wr := rfl
@[simp] theorem finishRoundf_u (f : Word) (s : State) : (finishRoundf f s).u = s.u := rfl
@[simp] theorem finishRoundf_wc (f : Word) (s : State) : (finishRoundf f s).wc = s.wc := rfl
@[simp] theorem finishRoundf_hp (f : Word) (s : State) : (finishRoundf f s).hp = .empty := rfl
@[simp] theorem finishRoundf_inputs (f : Word) (s : State) : (finishRoundf f s).inputs = s.inputs := rfl
@[simp] theorem finishRoundf_turn (f : Word) (s : State) : (finishRoundf f s).turn = s.turn := rfl
@[simp] theorem finishRoundf_resp (f : Word) (s : State) : (finishRoundf f s).resp = s.resp := rfl
@[simp] theorem finishRoundf_raised (f : Word) (s : State) : (finishRoundf f s).raised = s.raised := rfl
@[simp] theorem finishRoundf_sent (f : Word) (s : State) : (finishRoundf f s).sent = s.sent := rfl

/-! What `State.withInputs` writes, field by field. -/

@[simp] theorem withInputs_status (es : List Event) (s : State) : (s.withInputs es).status = s.status := rfl
@[simp] theorem withInputs_ie (es : List Event) (s : State) : (s.withInputs es).ie = s.ie := rfl
@[simp] theorem withInputs_n (es : List Event) (s : State) : (s.withInputs es).n = s.n := rfl
@[simp] theorem withInputs_index (es : List Event) (s : State) : (s.withInputs es).index = s.index := rfl
@[simp] theorem withInputs_result (es : List Event) (s : State) : (s.withInputs es).result = s.result := rfl
@[simp] theorem withInputs_key0 (es : List Event) (s : State) : (s.withInputs es).key0 = s.key0 := rfl
@[simp] theorem withInputs_key1 (es : List Event) (s : State) : (s.withInputs es).key1 = s.key1 := rfl
@[simp] theorem withInputs_key2 (es : List Event) (s : State) : (s.withInputs es).key2 = s.key2 := rfl
@[simp] theorem withInputs_lmask (es : List Event) (s : State) : (s.withInputs es).lmask = s.lmask := rfl
@[simp] theorem withInputs_rmask (es : List Event) (s : State) : (s.withInputs es).rmask = s.rmask := rfl
@[simp] theorem withInputs_hbits (es : List Event) (s : State) : (s.withInputs es).hbits = s.hbits := rfl
@[simp] theorem withInputs_wlimit (es : List Event) (s : State) : (s.withInputs es).wlimit = s.wlimit := rfl
@[simp] theorem withInputs_wcount (es : List Event) (s : State) : (s.withInputs es).wcount = s.wcount := rfl
@[simp] theorem withInputs_ph (es : List Event) (s : State) : (s.withInputs es).ph = s.ph := rfl
@[simp] theorem withInputs_op (es : List Event) (s : State) : (s.withInputs es).op = s.op := rfl
@[simp] theorem withInputs_rnd (es : List Event) (s : State) : (s.withInputs es).rnd = s.rnd := rfl
@[simp] theorem withInputs_wl (es : List Event) (s : State) : (s.withInputs es).wl = s.wl := rfl
@[simp] theorem withInputs_wr (es : List Event) (s : State) : (s.withInputs es).wr = s.wr := rfl
@[simp] theorem withInputs_u (es : List Event) (s : State) : (s.withInputs es).u = s.u := rfl
@[simp] theorem withInputs_wc (es : List Event) (s : State) : (s.withInputs es).wc = s.wc := rfl
@[simp] theorem withInputs_hp (es : List Event) (s : State) : (s.withInputs es).hp = s.hp := rfl
@[simp] theorem withInputs_inputs (es : List Event) (s : State) : (s.withInputs es).inputs = es := rfl
@[simp] theorem withInputs_turn (es : List Event) (s : State) : (s.withInputs es).turn = s.turn := rfl
@[simp] theorem withInputs_resp (es : List Event) (s : State) : (s.withInputs es).resp = s.resp := rfl
@[simp] theorem withInputs_raised (es : List Event) (s : State) : (s.withInputs es).raised = s.raised := rfl
@[simp] theorem withInputs_sent (es : List Event) (s : State) : (s.withInputs es).sent = s.sent := rfl
/-! What a reset leaves of the model's own fields; every register has the value of `State.reset`. -/

@[simp] theorem hardReset_inputs (s : State) : s.hardReset.inputs = s.inputs := rfl
@[simp] theorem hardReset_turn (s : State) : s.hardReset.turn = s.turn := rfl
@[simp] theorem hardReset_resp (s : State) : s.hardReset.resp = s.resp := rfl
@[simp] theorem hardReset_raised (s : State) : s.hardReset.raised = s.raised := rfl
@[simp] theorem hardReset_sent (s : State) : s.hardReset.sent = s.sent := rfl
@[simp] theorem hardReset_status (s : State) : s.hardReset.status = Status.reset := rfl
@[simp] theorem hardReset_ph (s : State) : s.hardReset.ph = .idle := rfl
@[simp] theorem hardReset_hp (s : State) : s.hardReset.hp = .empty := rfl
@[simp] theorem hardReset_ie (s : State) : s.hardReset.ie = false := rfl
@[simp] theorem hardReset_n (s : State) : s.hardReset.n = 0 := rfl
@[simp] theorem hardReset_index (s : State) : s.hardReset.index = 0 := rfl
@[simp] theorem hardReset_result (s : State) : s.hardReset.result = 0 := rfl
@[simp] theorem hardReset_wcount (s : State) : s.hardReset.wcount = 0 := rfl

end Sys2Proof.Machine
end

