-- ==== Sys2Proof/Laws/Ops.lean ====
section
/-! SUPPORT. One lemma per shared operation, saying once everything it can do, so that later proofs cite it instead of unfolding
the operation. -/

namespace Sys2Proof.Machine

/-! ## Acceptance -/

theorem acceptUnlessErr_cases (act : State → State) (s : State) :
    (s.status.busy = true ∧ acceptUnlessErr act s = s.reject) ∨
    (s.status.busy = false ∧ s.status.err = true ∧ acceptUnlessErr act s = s.reject) ∨
    (s.status.busy = false ∧ s.status.err = false ∧ acceptUnlessErr act s = act s) := by
  unfold acceptUnlessErr
  cases s.status.busy <;> cases s.status.err <;> simp

theorem acceptUnlessErr_idle (act : State → State) (s : State) (hb : s.status.busy = false)
    (he : s.status.err = false) : acceptUnlessErr act s = act s := by
  simp [acceptUnlessErr, hb, he]

theorem acceptUnlessErr_busy (act : State → State) (s : State) (hb : s.status.busy = true) :
    acceptUnlessErr act s = s.reject := by
  simp [acceptUnlessErr, hb]

theorem acceptUnlessErr_err (act : State → State) (s : State) (he : s.status.err = true) :
    acceptUnlessErr act s = s.reject := by
  simp [acceptUnlessErr, he]

theorem acceptAlways_cases (act : State → State) (s : State) :
    (s.status.busy = true ∧ acceptAlways act s = s.reject) ∨
    (s.status.busy = false ∧ acceptAlways act s = act s) := by
  unfold acceptAlways
  cases s.status.busy <;> simp

theorem acceptAlways_idle (act : State → State) (s : State) (hb : s.status.busy = false) :
    acceptAlways act s = act s := by
  simp [acceptAlways, hb]

theorem acceptAlways_busy (act : State → State) (s : State) (hb : s.status.busy = true) :
    acceptAlways act s = s.reject := by
  simp [acceptAlways, hb]

theorem beginPrecompute_cases (s : State) :
    (s.n = 0 ∧ beginPrecompute s = s.raise .nZero) ∨
    (s.n ≠ 0 ∧ beginPrecompute s = s.start .precompute .pre) := by
  unfold beginPrecompute
  split <;> simp_all

theorem beginApplication_cases (op : Opcode) (s : State) :
    (s.status.preValid = false ∧ beginApplication op s = s.raise .notPrecomputed) ∨
    (s.status.preValid = true ∧ s.status.allKeys = false ∧ beginApplication op s = s.raise .keysMissing) ∨
    (s.status.preValid = true ∧ s.status.allKeys = true ∧ beginApplication op s = s.startFromIndex op) := by
  unfold beginApplication
  cases s.status.preValid <;> cases s.status.allKeys <;> simp

theorem beginWalk_cases (op : Opcode) (s : State) :
    (s.status.preValid = false ∧ beginWalk op s = s.raise .notPrecomputed) ∨
    (s.status.preValid = true ∧ s.status.allKeys = false ∧ beginWalk op s = s.raise .keysMissing) ∨
    (s.status.preValid = true ∧ s.status.allKeys = true ∧ s.n ≤ s.index ∧ beginWalk op s = s.raise .indexRange) ∨
    (s.status.preValid = true ∧ s.status.allKeys = true ∧ s.index < s.n ∧
      beginWalk op s = s.startFromIndex op) := by
  unfold beginWalk
  by_cases h : s.n ≤ s.index
  · cases s.status.preValid <;> cases s.status.allKeys <;> simp [h]
  · have h' : s.index < s.n := BitVec.not_le.mp h
    cases s.status.preValid <;> cases s.status.allKeys <;> simp [h, h']

theorem beginRoundf_cases (k : Fin 3) (s : State) :
    (s.status.preValid = false ∧ beginRoundf k s = s.raise .notPrecomputed) ∨
    (s.status.preValid = true ∧ s.status.keyValid k = false ∧ beginRoundf k s = s.raise .keysMissing) ∨
    (s.status.preValid = true ∧ s.status.keyValid k = true ∧
      beginRoundf k s = { s.start .roundf .hreq with rnd := k }) := by
  unfold beginRoundf
  cases s.status.preValid <;> cases s.status.keyValid k <;> simp

/-! ## Events -/

theorem nextEvent_withInputs (s : State) (e : Event) (es : List Event) :
    (s.withInputs (e :: es)).nextEvent = e := rfl

theorem advance_withInputs (s : State) (e : Event) (es : List Event) :
    (s.withInputs (e :: es)).advance = { s.withInputs es with resp := none } := rfl

/-- Taking an event off changes only the model's own fields that order the events. -/
theorem advance_eq (s : State) :
    s.advance = { s with inputs := s.inputs.tail, turn := s.advance.turn, resp := none } := by
  unfold State.advance
  cases h : s.inputs <;> simp

theorem step_withInputs (s : State) (e : Event) (es : List Event) :
    step (s.withInputs (e :: es)) = perform e { s.withInputs es with resp := none } := rfl

/-! ## The engine and the collaborator -/

theorem requestStep_cases (b : Bool) (s : State) :
    (s.hp = .empty ∧ b = true ∧
      requestStep b s = { s with hp := .pending s.request, ph := .hwait, sent := s.request :: s.sent }) ∨
    ((s.hp ≠ .empty ∨ b = false) ∧ requestStep b s = s) := by
  unfold requestStep
  cases s.hp <;> cases b <;> simp

theorem hashStep_cases (s : State) :
    (∃ m, s.hp = .pending m ∧ hashStep s = { s with hp := .ready (digestOf m) }) ∨
    ((∀ m, s.hp ≠ .pending m) ∧ hashStep s = s) := by
  unfold hashStep
  cases s.hp <;> simp

theorem responseStep_cases (s : State) :
    (∃ d, s.hp = .ready d ∧ responseStep s = completeRound (reduce d) s) ∨
    ((∀ d, s.hp ≠ .ready d) ∧ responseStep s = s) := by
  unfold responseStep
  cases s.hp <;> simp

theorem forwardRound_cases (f : Word) (s : State) :
    (s.rnd = 2 ∧ forwardRound f s =
      recombine { s with wl := s.wr, wr := s.wl ^^^ f.setWidth 32, hp := .empty }) ∨
    (s.rnd ≠ 2 ∧ forwardRound f s =
      { s with wl := s.wr, wr := s.wl ^^^ f.setWidth 32, hp := .empty, rnd := s.rnd + 1, ph := .hreq }) := by
  by_cases h : s.rnd = 2 <;> simp [forwardRound, combineFwd, h]

theorem backwardRound_cases (f : Word) (s : State) :
    (s.rnd = 0 ∧ backwardRound f s =
      recombine { s with wl := s.wr ^^^ f.setWidth 32, wr := s.wl, hp := .empty }) ∨
    (s.rnd ≠ 0 ∧ backwardRound f s =
      { s with wl := s.wr ^^^ f.setWidth 32, wr := s.wl, hp := .empty, rnd := s.rnd - 1, ph := .hreq }) := by
  by_cases h : s.rnd = 0 <;> simp [backwardRound, combineBwd, h]

theorem completeRound_cases (r : Word) (s : State) :
    (s.op = .roundf ∧ completeRound r s = finishRoundf (r &&& s.rmask) s) ∨
    (s.op ≠ .roundf ∧ s.op.forward = true ∧ completeRound r s = forwardRound (r &&& s.rmask) s) ∨
    (s.op ≠ .roundf ∧ s.op.forward = false ∧ completeRound r s = backwardRound (r &&& s.rmask) s) := by
  unfold completeRound
  by_cases h : s.op = .roundf
  · simp [h]
  · cases h' : s.op.forward <;> simp [h]

theorem checkStep_cases (s : State) :
    ((s.op.single = true ∨ s.u < s.n) ∧
      checkStep s = State.finish { s with result := s.u, wcount := s.wc }) ∨
    (s.op.single = false ∧ s.n ≤ s.u ∧ s.wlimit ≠ 0 ∧ s.wlimit ≤ s.wc ∧
      checkStep s = State.raise .walkLimit { s with wcount := s.wc }) ∨
    (s.op.single = false ∧ s.n ≤ s.u ∧ (s.wlimit = 0 ∨ s.wc < s.wlimit) ∧
      checkStep s = { s with ph := .setup }) := by
  unfold checkStep
  cases h1 : s.op.single
  · by_cases hu : s.u < s.n
    · exact .inl ⟨.inr hu, by simp [hu]⟩
    · have hn : s.n ≤ s.u := BitVec.not_lt.mp hu
      by_cases hc : s.wlimit ≠ 0 ∧ s.wlimit ≤ s.wc
      · exact .inr (.inl ⟨rfl, hn, hc.1, hc.2, by rw [if_neg (by decide), if_neg hu, if_pos hc]⟩)
      · refine .inr (.inr ⟨rfl, hn, ?_, by rw [if_neg (by decide), if_neg hu, if_neg hc]⟩)
        by_cases h0 : s.wlimit = 0
        · exact .inl h0
        · exact .inr (BitVec.not_le.mp fun hle => hc ⟨h0, hle⟩)
  · simp

/-! ## The bus -/

theorem writeWhenIdle_cases (write : State → State) (s : State) :
    (s.status.busy = true ∧ writeWhenIdle write s = s.reject) ∨
    (s.status.busy = false ∧ writeWhenIdle write s = write s) := by
  unfold writeWhenIdle
  cases s.status.busy <;> simp

theorem regAt_offset (r : Reg) : regAt r.offset = some r := by
  cases r <;> rfl

theorem regAt_eq_some {off : BitVec 7} {r : Reg} (h : regAt off = some r) : off = r.offset := by
  unfold regAt at h
  split at h <;> cases h <;> (apply BitVec.eq_of_toNat_eq; simpa [Reg.offset] using ‹_›)

end Sys2Proof.Machine
end

