-- ==== Sys2Proof/Laws/Feistel.lean ====
section
/-! SUPPORT. The arithmetic of masks, halves, split and join, and of the half-width loop: what each computes as a number, so that a
proof about the datapath reasons about numbers below `2^h` and unfolds no bit operation. -/

namespace Sys2Proof.Machine

/-- The reference loop finds the least exponent at or after the one it starts from (40_precompute.md R122). -/
theorem halfBitsLoop_least (n fuel : Nat) : ∀ h, 0 < h → (∀ k, 0 < k → n ≤ 4 ^ k → h ≤ k) → n ≤ 4 ^ (h + fuel) →
    IsLeast { k | 0 < k ∧ n ≤ 4 ^ k } (halfBitsLoop n (4 ^ h) h fuel) := by
  induction fuel with
  | zero => exact fun h h0 hmin hn => ⟨⟨h0, hn⟩, fun k hk => hmin k hk.1 hk.2⟩
  | succ fuel ih =>
    intro h h0 hmin hn
    simp only [halfBitsLoop]
    split
    · rename_i hlt
      rw [show 4 ^ h * 4 = 4 ^ (h + 1) from (Nat.pow_succ 4 h).symm]
      refine ih (h + 1) (by omega) (fun k hk hnk => ?_) (by rwa [show h + 1 + fuel = h + (fuel + 1) by omega])
      rcases (hmin k hk hnk).lt_or_eq with hk' | rfl
      · exact hk'
      · omega
    · rename_i hge
      exact ⟨⟨h0, by omega⟩, fun k hk => hmin k hk.1 hk.2⟩

theorem rightMask_toNat {h : Nat} (hh : h ≤ 32) : (rightMask h).toNat = 2 ^ h - 1 := by
  have key : ∀ h ≤ 32, (rightMask h).toNat = 2 ^ h - 1 := by decide
  exact key h hh

theorem and_rightMask_toNat (x : Word) {h : Nat} (hh : h ≤ 32) : (x &&& rightMask h).toNat = x.toNat % 2 ^ h := by
  rw [BitVec.toNat_and, rightMask_toNat hh, Nat.and_two_pow_sub_one_eq_mod]

theorem rightMask_getLsbD {h : Nat} (hh : h ≤ 32) (i : Nat) : (rightMask h).getLsbD i = decide (i < h) := by
  rw [BitVec.getLsbD, rightMask_toNat hh, Nat.testBit_two_pow_sub_one]

theorem and_leftMask_toNat (x : Word) {h : Nat} (hh : h ≤ 32) :
    ((x &&& leftMask h) >>> h).toNat = x.toNat / 2 ^ h % 2 ^ h := by
  have e : (x &&& leftMask h) >>> h = (x >>> h) &&& rightMask h := by
    apply BitVec.eq_of_getLsbD_eq
    intro i hi
    simp only [leftMask, BitVec.getLsbD_ushiftRight, BitVec.getLsbD_and, BitVec.getLsbD_shiftLeft, rightMask_getLsbD hh]
    by_cases hl : i < h
    · have : h + i < 64 := by omega
      simp [hl, this]
    · simp [hl]
  rw [e, and_rightMask_toNat _ hh, BitVec.toNat_ushiftRight, Nat.shiftRight_eq_div_pow]

theorem pow_two_le_of_le {h : Nat} (hh : h ≤ 32) : 2 ^ h ≤ 2 ^ 32 := Nat.pow_le_pow_right (by omega) hh

theorem four_pow (h : Nat) : 4 ^ h = 2 ^ h * 2 ^ h := by rw [← Nat.mul_pow]

section Halves

variable {p : Network} (wf : p.WellFormed)
include wf

theorem leftHalf_toNat (x : Word) : (p.leftHalf x).toNat = x.toNat / 2 ^ p.h % 2 ^ p.h := by
  have e : p.lmask = leftMask p.h := by rw [wf.left_mask, wf.right_mask]; rfl
  have := pow_two_le_of_le wf.h_le
  have := Nat.mod_lt (x.toNat / 2 ^ p.h) (show 0 < 2 ^ p.h by positivity)
  rw [Network.leftHalf, BitVec.toNat_setWidth, e, and_leftMask_toNat x wf.h_le]
  exact Nat.mod_eq_of_lt (by omega)

theorem rightHalf_toNat (x : Word) : (p.rightHalf x).toNat = x.toNat % 2 ^ p.h := by
  have e : p.rmask = rightMask p.h := wf.right_mask
  have := pow_two_le_of_le wf.h_le
  have := Nat.mod_lt x.toNat (show 0 < 2 ^ p.h by positivity)
  rw [Network.rightHalf, BitVec.toNat_setWidth, e, and_rightMask_toNat x wf.h_le]
  exact Nat.mod_eq_of_lt (by omega)

/-- A masked round value is below `2^h`, so truncating it to 32 bits loses nothing (log 19). -/
theorem and_rmask_toNat_lt (f : Word) : (f &&& p.rmask).toNat < 2 ^ p.h := by
  have e : p.rmask = rightMask p.h := wf.right_mask
  rw [e, and_rightMask_toNat f wf.h_le]
  exact Nat.mod_lt _ (by positivity)

theorem xor_round_toNat_lt {l : Half} (f : Word) (hl : l.toNat < 2 ^ p.h) :
    (l ^^^ (f &&& p.rmask).setWidth 32).toNat < 2 ^ p.h := by
  rw [BitVec.toNat_xor]
  refine Nat.xor_lt_two_pow hl ?_
  rw [BitVec.toNat_setWidth]
  exact lt_of_le_of_lt (Nat.mod_le _ _) (and_rmask_toNat_lt wf f)

theorem join_toNat {l r : Half} (hl : l.toNat < 2 ^ p.h) (hr : r.toNat < 2 ^ p.h) :
    (p.join (l, r)).toNat = l.toNat * 2 ^ p.h + r.toNat := by
  have h1 := pow_two_le_of_le wf.h_le
  have h2 : l.toNat * 2 ^ p.h < 2 ^ 64 := by
    calc l.toNat * 2 ^ p.h < 2 ^ p.h * 2 ^ p.h := Nat.mul_lt_mul_of_pos_right hl (by positivity)
      _ ≤ 2 ^ 32 * 2 ^ 32 := Nat.mul_le_mul h1 h1
      _ = 2 ^ 64 := by norm_num
  have hl' : l.toNat % 2 ^ 64 = l.toNat := Nat.mod_eq_of_lt (by omega)
  have hr' : r.toNat % 2 ^ 64 = r.toNat := Nat.mod_eq_of_lt (by omega)
  simp only [Network.join, BitVec.toNat_or, BitVec.toNat_shiftLeft, BitVec.toNat_setWidth]
  rw [hl', hr', Nat.shiftLeft_eq, Nat.mod_eq_of_lt h2, ← Nat.shiftLeft_eq, ← Nat.shiftLeft_add_eq_or_of_lt hr,
    Nat.shiftLeft_eq]

theorem join_toNat_lt {l r : Half} (hl : l.toNat < 2 ^ p.h) (hr : r.toNat < 2 ^ p.h) :
    (p.join (l, r)).toNat < 4 ^ p.h := by
  have := Nat.mul_le_mul_right (2 ^ p.h) (show l.toNat + 1 ≤ 2 ^ p.h from hl)
  rw [Nat.add_mul] at this
  rw [join_toNat wf hl hr, four_pow]
  omega

theorem split_join {l r : Half} (hl : l.toNat < 2 ^ p.h) (hr : r.toNat < 2 ^ p.h) :
    p.split (p.join (l, r)) = (l, r) := by
  have hp : 0 < 2 ^ p.h := by positivity
  refine Prod.ext (BitVec.eq_of_toNat_eq ?_) (BitVec.eq_of_toNat_eq ?_)
  · rw [Network.split, leftHalf_toNat wf, join_toNat wf hl hr, Nat.mul_comm, Nat.mul_add_div hp,
      Nat.div_eq_of_lt hr, Nat.add_zero, Nat.mod_eq_of_lt hl]
  · rw [Network.split, rightHalf_toNat wf, join_toNat wf hl hr, Nat.mul_comm, Nat.mul_add_mod, Nat.mod_eq_of_lt hr]

theorem split_small (x : Word) : (p.split x).1.toNat < 2 ^ p.h ∧ (p.split x).2.toNat < 2 ^ p.h := by
  have hp : 0 < 2 ^ p.h := by positivity
  constructor
  · rw [Network.split, leftHalf_toNat wf]; exact Nat.mod_lt _ hp
  · rw [Network.split, rightHalf_toNat wf]; exact Nat.mod_lt _ hp

theorem join_split {x : Word} (hx : x.toNat < 4 ^ p.h) : p.join (p.split x) = x := by
  obtain ⟨h1, h2⟩ := split_small wf x
  apply BitVec.eq_of_toNat_eq
  rw [Network.split] at h1 h2 ⊢
  rw [join_toNat wf h1 h2, leftHalf_toNat wf, rightHalf_toNat wf, Nat.mod_eq_of_lt (a := x.toNat / 2 ^ p.h)]
  · exact Nat.div_add_mod' _ _
  · rw [four_pow] at hx; exact Nat.div_lt_of_lt_mul hx

end Halves

end Sys2Proof.Machine
end

