-- ==== Sys2Proof/Laws/PerInstr.lean ====
section
/-! SUPPORT. Families of statements about the commands as syntax, one lemma per command (30_encoding.md R90 to R92). -/

namespace Sys2Proof.Laws.EncodeFields

/-- The fields of a command's word are the ones 30_encoding.md R90 and R92 give it. -/
def Statement (i : Instr) : Prop :=
  rsvField (encode i) = 0 ∧ opField (encode i) = i.opcode ∧ kselField (encode i) = i.kselBits

theorem nop : Statement .nop := by unfold Statement; decide
theorem precompute : Statement .precompute := by unfold Statement; decide
theorem encode : Statement .encode := by unfold Statement; decide
theorem decode : Statement .decode := by unfold Statement; decide
theorem permute : Statement .permute := by unfold Statement; decide
theorem invert : Statement .invert := by unfold Statement; decide
theorem roundf (ksel : BitVec 2) : Statement (.roundf ksel) := by unfold Statement; revert ksel; decide
theorem clear : Statement .clear := by unfold Statement; decide

end Sys2Proof.Laws.EncodeFields
end

