-- ==== Sys2Proof/Laws/Step.lean ====
section
/-! SUPPORT. The inversion of a step: everything a step of each agent can do, guards included, said once, so that a proof about
every step is one case analysis that unfolds nothing. -/

namespace Sys2Proof.Machine

/-- What the accept of the word `w` can do (44_control.md R230 to R234). -/
inductive AcceptEffect (w : Word) (s : State) : State → Prop
  | drop : s.status.busy = true ∨ s.status.err = true → AcceptEffect w s s.reject
  | nop : s.status.busy = false → decode w = .command .nop → AcceptEffect w s s
  | clear : s.status.busy = false → decode w = .command .clear → AcceptEffect w s s.clear
  | error (e : ErrorKind) : s.status.busy = false → s.status.err = false → AcceptEffect w s (s.raise e)
  | precompute : s.status.busy = false → s.status.err = false → s.n ≠ 0 → decode w = .command .precompute →
      AcceptEffect w s (s.start .precompute .pre)
  | apply (op : Opcode) : s.status.busy = false → s.status.err = false → s.status.preValid = true →
      s.status.allKeys = true → op.applies → (op.folds → s.index < s.n) → (∃ i, decode w = .command i) →
      AcceptEffect w s (s.startFromIndex op)
  | roundf (k : Fin 3) : s.status.busy = false → s.status.err = false → s.status.preValid = true →
      s.status.keyValid k = true → (∃ i, decode w = .command i) →
      AcceptEffect w s { s.start .roundf .hreq with rnd := k }

/-- What a bus transaction can do (20_memory.md R62 to R71). -/
inductive HostEffect (tr : BusTransaction) (s : State) : State → Prop
  | respond (r : BusResponse) : HostEffect tr s (s.respond r)
  | cfg : tr.we = true → tr.off = Reg.cfg.offset →
      HostEffect tr s { s.respond writeOk with ie := tr.wdata.getLsbD 0 }
  | drop : s.status.busy = true → HostEffect tr s (s.respond writeOk).reject
  | n : s.status.busy = false → tr.we = true → tr.off = Reg.n.offset →
      HostEffect tr s { s.respond writeOk with n := tr.wdata, status.preValid := false }
  | index : s.status.busy = false → HostEffect tr s { s.respond writeOk with index := tr.wdata }
  | key0 : s.status.busy = false →
      HostEffect tr s { s.respond writeOk with key0 := tr.wdata, status.kv0 := true }
  | key1 : s.status.busy = false →
      HostEffect tr s { s.respond writeOk with key1 := tr.wdata, status.kv1 := true }
  | key2 : s.status.busy = false →
      HostEffect tr s { s.respond writeOk with key2 := tr.wdata, status.kv2 := true }
  | wlimit : s.status.busy = false → HostEffect tr s { s.respond writeOk with wlimit := tr.wdata }
  | accept (t : State) : tr.we = true → tr.off = Reg.cmd.offset →
      AcceptEffect tr.wdata (s.respond writeOk) t → HostEffect tr s t

/-- What a step of the engine can do (44_control.md R240). -/
inductive EngineEffect (s : State) : State → Prop
  | stay : EngineEffect s s
  | precompute : s.ph = .pre → EngineEffect s (precomputeStep s)
  | setup : s.ph = .setup → EngineEffect s (setupStep s)
  | request : s.ph = .hreq → s.hp = .empty →
      EngineEffect s { s with hp := .pending s.request, ph := .hwait, sent := s.request :: s.sent }
  | roundf (d : Digest) : s.ph = .hwait → s.hp = .ready d → s.op = .roundf →
      EngineEffect s (finishRoundf (reduce d &&& s.rmask) s)
  | forward (d : Digest) : s.ph = .hwait → s.hp = .ready d → s.op ≠ .roundf → s.op.forward = true → s.rnd ≠ 2 →
      EngineEffect s
        { s with
          wl := s.wr, wr := s.wl ^^^ (reduce d &&& s.rmask).setWidth 32, hp := .empty, rnd := s.rnd + 1, ph := .hreq }
  | forwardLast (d : Digest) : s.ph = .hwait → s.hp = .ready d → s.op ≠ .roundf → s.op.forward = true → s.rnd = 2 →
      EngineEffect s (recombine { s with wl := s.wr, wr := s.wl ^^^ (reduce d &&& s.rmask).setWidth 32, hp := .empty })
  | backward (d : Digest) : s.ph = .hwait → s.hp = .ready d → s.op ≠ .roundf → s.op.forward = false → s.rnd ≠ 0 →
      EngineEffect s
        { s with
          wl := s.wr ^^^ (reduce d &&& s.rmask).setWidth 32, wr := s.wl, hp := .empty, rnd := s.rnd - 1, ph := .hreq }
  | backwardLast (d : Digest) : s.ph = .hwait → s.hp = .ready d → s.op ≠ .roundf → s.op.forward = false → s.rnd = 0 →
      EngineEffect s (recombine { s with wl := s.wr ^^^ (reduce d &&& s.rmask).setWidth 32, wr := s.wl, hp := .empty })
  | land : s.ph = .check → s.op.single = true ∨ s.u < s.n →
      EngineEffect s (State.finish { s with result := s.u, wcount := s.wc })
  | cap : s.ph = .check → s.op.single = false → s.n ≤ s.u → s.wlimit ≠ 0 → s.wlimit ≤ s.wc →
      EngineEffect s (State.raise .walkLimit { s with wcount := s.wc })
  | again : s.ph = .check → s.op.single = false → s.n ≤ s.u → s.wlimit = 0 ∨ s.wc < s.wlimit →
      EngineEffect s { s with ph := .setup }

/-- What the step of each agent can do (00_scope.md R10). -/
inductive StepEffect (s : State) : Event → State → Prop
  | host (tr : BusTransaction) (t : State) : HostEffect tr s t → StepEffect s (.host tr) t
  | engine (b : Bool) (t : State) : EngineEffect s t → StepEffect s (.engine b) t
  | hash (m : Msg) : s.hp = .pending m → StepEffect s .hashResponse { s with hp := .ready (digestOf m) }
  | hashStay : (∀ m, s.hp ≠ .pending m) → StepEffect s .hashResponse s
  | reset : StepEffect s .reset s.hardReset

theorem acceptUnlessErr_effect {w : Word} {act : State → State} {s : State}
    (h : s.status.busy = false → s.status.err = false → AcceptEffect w s (act s)) :
    AcceptEffect w s (acceptUnlessErr act s) := by
  rcases acceptUnlessErr_cases act s with ⟨hb, e⟩ | ⟨_, he, e⟩ | ⟨hb, he, e⟩ <;> rw [e]
  · exact .drop (.inl hb)
  · exact .drop (.inr he)
  · exact h hb he

theorem acceptAlways_effect {w : Word} {act : State → State} {s : State}
    (h : s.status.busy = false → AcceptEffect w s (act s)) : AcceptEffect w s (acceptAlways act s) := by
  rcases acceptAlways_cases act s with ⟨hb, e⟩ | ⟨hb, e⟩ <;> rw [e]
  · exact .drop (.inl hb)
  · exact h hb

theorem beginApplication_effect {w : Word} {op : Opcode} {s : State} (hop : op = .encode ∨ op = .decode)
    (hi : ∃ i, decode w = .command i) (hb : s.status.busy = false) (he : s.status.err = false) :
    AcceptEffect w s (beginApplication op s) := by
  rcases beginApplication_cases op s with ⟨_, e⟩ | ⟨_, _, e⟩ | ⟨hp, hk, e⟩ <;> rw [e]
  · exact .error _ hb he
  · exact .error _ hb he
  · refine .apply op hb he hp hk ?_ ?_ hi
    · rcases hop with rfl | rfl <;> simp [Opcode.applies]
    · rcases hop with rfl | rfl <;> simp [Opcode.folds]

theorem beginWalk_effect {w : Word} {op : Opcode} {s : State} (hop : op = .permute ∨ op = .invert)
    (hi : ∃ i, decode w = .command i) (hb : s.status.busy = false) (he : s.status.err = false) :
    AcceptEffect w s (beginWalk op s) := by
  rcases beginWalk_cases op s with ⟨_, e⟩ | ⟨_, _, e⟩ | ⟨_, _, _, e⟩ | ⟨hp, hk, hn, e⟩ <;> rw [e]
  · exact .error _ hb he
  · exact .error _ hb he
  · exact .error _ hb he
  · refine .apply op hb he hp hk ?_ (fun _ => hn) hi
    rcases hop with rfl | rfl <;> simp [Opcode.applies]

theorem beginRoundf_effect {w : Word} {k : Fin 3} {s : State} (hi : ∃ i, decode w = .command i)
    (hb : s.status.busy = false) (he : s.status.err = false) : AcceptEffect w s (beginRoundf k s) := by
  rcases beginRoundf_cases k s with ⟨_, e⟩ | ⟨_, _, e⟩ | ⟨hp, hk, e⟩ <;> rw [e]
  · exact .error _ hb he
  · exact .error _ hb he
  · exact .roundf k hb he hp hk hi

theorem beginPrecompute_effect {w : Word} {s : State} (hi : decode w = .command .precompute)
    (hb : s.status.busy = false) (he : s.status.err = false) : AcceptEffect w s (beginPrecompute s) := by
  rcases beginPrecompute_cases s with ⟨_, e⟩ | ⟨hn, e⟩ <;> rw [e]
  · exact .error _ hb he
  · exact .precompute hb he hn hi

theorem acceptWord_effect {w : Word} {s t : State} (h : acceptWord w s = .next t) : AcceptEffect w s t := by
  unfold acceptWord at h
  split at h
  · rename_i i hi
    have hw : ∃ i, decode w = .command i := ⟨i, hi⟩
    cases i with
    | nop => cases h; exact acceptAlways_effect fun hb => .nop hb hi
    | clear => cases h; exact acceptAlways_effect fun hb => .clear hb hi
    | precompute => cases h; exact acceptUnlessErr_effect (beginPrecompute_effect hi)
    | encode => cases h; exact acceptUnlessErr_effect (beginApplication_effect (.inl rfl) hw)
    | decode => cases h; exact acceptUnlessErr_effect (beginApplication_effect (.inr rfl) hw)
    | permute => cases h; exact acceptUnlessErr_effect (beginWalk_effect (.inl rfl) hw)
    | invert => cases h; exact acceptUnlessErr_effect (beginWalk_effect (.inr rfl) hw)
    | roundf k =>
      simp only [exec, execRoundf] at h
      split at h <;> cases h
      · exact acceptUnlessErr_effect (beginRoundf_effect hw)
      · exact acceptUnlessErr_effect fun hb he => .error _ hb he
  · cases h
    exact acceptUnlessErr_effect fun hb he => .error _ hb he

theorem hostStep_effect {tr : BusTransaction} {s t : State} (h : hostStep tr s = .next t) : HostEffect tr s t := by
  unfold hostStep at h
  split at h
  case isFalse => cases h; exact .respond _
  case isTrue hw =>
    unfold busWrite at h
    rcases ho : regAt tr.off with _ | r <;> rw [ho] at h <;> dsimp only at h
    · cases h; exact .respond _
    · have hoff := regAt_eq_some ho
      have idle : ∀ write : State → State,
          (.next (writeWhenIdle write (s.respond writeOk)) : Host.Outcome State Fault Refusal) = .next t →
          (s.status.busy = false → HostEffect tr s (write (s.respond writeOk))) → HostEffect tr s t := by
        intro write hn hwr
        cases hn
        rcases writeWhenIdle_cases write (s.respond writeOk) with ⟨hb, e⟩ | ⟨hb, e⟩ <;> rw [e]
        · exact .drop hb
        · exact hwr hb
      cases r <;> dsimp only [writeReg] at h
      case cmd => exact .accept t hw hoff (acceptWord_effect h)
      case cfg => cases h; exact .cfg hw hoff
      case n => exact idle _ h fun hb => .n hb hw hoff
      case index => exact idle _ h .index
      case key0 => exact idle _ h .key0
      case key1 => exact idle _ h .key1
      case key2 => exact idle _ h .key2
      case wlimit => exact idle _ h .wlimit
      all_goals cases h; exact .respond _

theorem engineStep_effect (b : Bool) (s : State) : EngineEffect s (engineStep b s) := by
  unfold engineStep
  cases hp : s.ph <;> dsimp only
  · exact .stay
  · exact .precompute hp
  · exact .setup hp
  · rcases requestStep_cases b s with ⟨he, _, e⟩ | ⟨_, e⟩ <;> rw [e]
    · exact .request hp he
    · exact .stay
  · rcases responseStep_cases s with ⟨d, hd, e⟩ | ⟨_, e⟩ <;> rw [e]
    · rcases completeRound_cases (reduce d) s with ⟨ho, e⟩ | ⟨ho, hf, e⟩ | ⟨ho, hf, e⟩ <;> rw [e]
      · exact .roundf d hp hd ho
      · rcases forwardRound_cases (reduce d &&& s.rmask) s with ⟨hr, e⟩ | ⟨hr, e⟩ <;> rw [e]
        · exact .forwardLast d hp hd ho hf hr
        · exact .forward d hp hd ho hf hr
      · rcases backwardRound_cases (reduce d &&& s.rmask) s with ⟨hr, e⟩ | ⟨hr, e⟩ <;> rw [e]
        · exact .backwardLast d hp hd ho hf hr
        · exact .backward d hp hd ho hf hr
    · exact .stay
  · rcases checkStep_cases s with ⟨h, e⟩ | ⟨h1, h2, h3, h4, e⟩ | ⟨h1, h2, h3, e⟩ <;> rw [e]
    · exact .land hp h
    · exact .cap hp h1 h2 h3 h4
    · exact .again hp h1 h2 h3

/-- Everything the step of one agent can do. -/
theorem perform_effect {e : Event} {s t : State} (h : perform e s = .next t) : StepEffect s e t := by
  cases e with
  | host tr => exact .host tr t (hostStep_effect h)
  | engine b => cases h; exact .engine b _ (engineStep_effect b s)
  | hashResponse =>
    cases h
    rcases hashStep_cases s with ⟨m, hm, e⟩ | ⟨hm, e⟩ <;> rw [e]
    · exact .hash m hm
    · exact .hashStay hm
  | reset => cases h; exact .reset

/-! ## Runs -/

theorem run_succ_of_step {s t : State} (h : step s = .next t) (k : Nat) :
    Sys2Proof.core.run (k + 1) s = Sys2Proof.core.run k t := by
  have h' : Sys2Proof.core.step s = .next t := h
  simp only [Host.Core.run]
  rw [h']

theorem run_add_of_run {a : Nat} {s t : State} (h : Sys2Proof.core.run a s = Host.Outcome.next t) (b : Nat) :
    Sys2Proof.core.run (a + b) s = Sys2Proof.core.run b t := by
  induction a generalizing s with
  | zero => cases h; rw [Nat.zero_add]
  | succ a ih =>
    rw [Nat.add_right_comm]
    rcases hs : step s with s' | f | r
    · rw [run_succ_of_step hs] at h ⊢
      exact ih h
    · cases f
    · have h' : Sys2Proof.core.step s = .refused r := hs
      simp only [Host.Core.run] at h
      rw [h'] at h
      cases h

/-- Everything a step can do. -/
theorem step_effect {s t : State} (h : step s = .next t) : StepEffect s.advance s.nextEvent t := perform_effect h

/-! ## Enabled steps -/

/-- An engine step that is not enabled changes nothing. -/
theorem engineStep_of_not_enabled {b : Bool} {s : State} (h : engineEnabled b s = false) : engineStep b s = s := by
  unfold engineEnabled at h
  unfold engineStep requestStep responseStep
  cases hp : s.ph <;> cases hh : s.hp <;> simp_all

/-- A response that no request waits for changes nothing. -/
theorem hashStep_of_not_enabled {s : State} (h : hashEnabled s = false) : hashStep s = s := by
  unfold hashEnabled at h
  unfold hashStep
  cases hh : s.hp <;> simp_all

theorem hashEnabled_iff {s : State} : hashEnabled s = true ↔ ∃ m, s.hp = .pending m := by
  unfold hashEnabled
  cases s.hp <;> simp

theorem hreqValid_iff {s : State} : s.hreqValid = true ↔ s.ph = .hreq ∧ s.hp = .empty := by
  simp [State.hreqValid]

@[simp] theorem countSteps_zero (sort : State → Event → Bool) (s : State) : countSteps sort 0 s = 0 := rfl

theorem countSteps_succ_of_step {s t : State} (h : step s = .next t) (sort : State → Event → Bool) (k : Nat) :
    countSteps sort (k + 1) s = (if sort s s.nextEvent then 1 else 0) + countSteps sort k t := by
  simp only [countSteps, h]

end Sys2Proof.Machine
end

