-- ==== Sys2Proof/Tests/Slice0.lean ====
section
/-! SUPPORT. Tests on fixed values, each expected result from a vector of spec/95_test_vectors.md or from a rule's own words, and a
witness for the hypotheses of every statement of Certificates/Slice0/Obligations.lean. -/

namespace Sys2Proof.Tests

open Sys2Proof Sys2Proof.Machine

/-- A value of the next state of an outcome, none if it is a fault or a refusal. -/
def after {α : Type} (o : Host.Outcome State Fault Refusal) (f : State → α) : Option α :=
  match o with
  | .next t => some (f t)
  | .fault _ => none
  | .refused _ => none

/-- `STATUS` as read after an outcome. -/
def statusAfter (o : Host.Outcome State Fault Refusal) : Option Word := after o fun t => t.status.word

/-- `N = 5` precomputed, the three keys of 95_test_vectors.md written, `INDEX = 2`, idle: `STATUS = 0x0F0`. -/
def ready : State :=
  { State.reset with
    n := 5, index := 2, key0 := 0xA0, key1 := 0xB1, key2 := 0xC2, hbits := 2, rmask := 0x3, lmask := 0xC
    status := { Status.reset with preValid := true, kv0 := true, kv1 := true, kv2 := true } }

/-- `ready` with the last command done: `STATUS = 0x0F2`. -/
def done : State := { ready with status := { ready.status with done := true } }

/-- `ready` after an INDEX_RANGE error: `STATUS = 0x5F4`. -/
def failed : State := { ready with status := { ready.status with err := true, errCode := 5 } }

/-- A command runs, in a phase and with an opcode: `STATUS = 0x0F1`. -/
def running (ph : Phase) (op : Opcode) : State :=
  { ready with status := { ready.status with busy := true }, ph := ph, op := op }

/-- A bus write. -/
def wr (off : BitVec 7) (v : Word) : Event := .host { we := true, off := off, wdata := v }

/-! ## Well-formedness and decoding -/

theorem test_wellFormed_refuses_roundf_3 : (Instr.roundf 3).wellFormed = false := by decide
theorem test_wellFormed_takes_roundf_2 : (Instr.roundf 2).wellFormed = true := by decide

-- Each word written out by bits, RSV KSEL OP, from 30_encoding.md R90 and R92.
theorem test_decode_nop : decode (0b000000#58 ++ 0b00#2 ++ 0b0000#4) = .command .nop := by decide
theorem test_decode_precompute : decode (0b000000#58 ++ 0b00#2 ++ 0b0001#4) = .command .precompute := by decide
theorem test_decode_encode : decode (0b000000#58 ++ 0b00#2 ++ 0b0010#4) = .command .encode := by decide
theorem test_decode_decode : decode (0b000000#58 ++ 0b00#2 ++ 0b0011#4) = .command .decode := by decide
theorem test_decode_permute : decode (0b000000#58 ++ 0b00#2 ++ 0b0100#4) = .command .permute := by decide
theorem test_decode_invert : decode (0b000000#58 ++ 0b00#2 ++ 0b0101#4) = .command .invert := by decide
theorem test_decode_roundf : decode (0b000000#58 ++ 0b10#2 ++ 0b0110#4) = .command (.roundf 2) := by decide
theorem test_decode_clear : decode (0b000000#58 ++ 0b00#2 ++ 0b0111#4) = .command .clear := by decide

theorem test_decode_rejects_by_name :
    decode 0x08 = .illegal .reservedOpcode ∧ decode 0x40 = .illegal .reservedBits ∧ decode 0x12 = .illegal .keySelect ∧
      decode 0x36 = .illegal .keySelect ∧ decode 0x8000000000000000 = .illegal .reservedBits := by decide

theorem test_decodeTableWord :
    decodeTableWord 64 0x16 = some (.roundf 1) ∧ decodeTableWord 64 0x4 = some .permute ∧
      decodeTableWord 64 0x36 = none ∧ decodeTableWord 64 0xF = none := by decide

theorem test_withFetchWord_runs_the_word :
    (State.reset.withFetchWord 64 0x1).fetchWord = some 0x1 ∧
      statusAfter (step (State.reset.withFetchWord 64 0x1)) = some 0x204 := by decide

/-! ## Commands at accept (vectors ER and CT) -/

theorem test_nop_leaves_status : statusAfter (exec .nop done) = some 0x0F2 := by decide
theorem test_nop_while_err : statusAfter (exec .nop failed) = some 0x5F4 := by decide
theorem test_clear_after_error : statusAfter (exec .clear failed) = some 0x0F0 := by decide
theorem test_clear_while_busy : statusAfter (exec .clear (running .hwait .permute)) = some 0x0F9 := by decide
theorem test_precompute_n_zero : statusAfter (exec .precompute State.reset) = some 0x204 := by decide
theorem test_precompute_starts : statusAfter (exec .precompute ready) = some 0x0F1 := by decide
theorem test_encode_not_precomputed : statusAfter (exec .encode State.reset) = some 0x304 := by decide
theorem test_encode_has_no_range_check : statusAfter (exec .encode { ready with index := 5 }) = some 0x0F1 := by decide
theorem test_decode_keys_missing :
    statusAfter (exec .decode { ready with status := { Status.reset with preValid := true } }) = some 0x414 := by decide
theorem test_decode_starts_from_index : after (exec .decode { ready with index := 6 }) State.u = some 6 := by decide
theorem test_permute_index_range : statusAfter (exec .permute { ready with index := 5 }) = some 0x5F4 := by decide
theorem test_permute_while_err : statusAfter (exec .permute failed) = some 0x5FC := by decide
theorem test_invert_first_failing_check :
    statusAfter (exec .invert { State.reset with index := 9 }) = some 0x304 := by decide
theorem test_invert_starts : after (exec .invert ready) (fun t => (t.ph, t.op, t.wc)) = some (.setup, .invert, 0) := by
  decide
theorem test_roundf_needs_its_key_only :
    statusAfter (exec (.roundf 0) { ready with status := { ready.status with kv1 := false, kv2 := false } }) =
      some 0x031 := by decide
theorem test_roundf_key_missing :
    statusAfter (exec (.roundf 2) { ready with status := { ready.status with kv2 := false } }) = some 0x474 := by decide
theorem test_illegal_word : statusAfter (acceptWord 0x40 State.reset) = some 0x104 := by decide

/-! ## The bus and the outputs (vectors BU, CT, RS) -/

theorem test_id_example : idWord 64 = 0x4645535401400303 := by decide
theorem test_reads_of_no_register :
    busRead 0x78 ready = { rdata := 0, err := true } ∧ busRead 0x0C ready = { rdata := 0, err := true } ∧
      busRead 0x08 ready = { rdata := 0, err := false } ∧ busRead 0x60 ready = { rdata := 2, err := false } := by decide
theorem test_write_key0 :
    after (busWrite 0x38 0xA0 State.reset) (fun t => (t.key0, t.status.word)) = some (0xA0, 0x020) := by decide
theorem test_write_n_clears_pre_valid :
    after (busWrite 0x20 5 done) (fun t => (t.status.word, t.hbits)) = some (0x0E2, 2) := by decide
theorem test_write_n_while_busy :
    after (busWrite 0x20 7 (running .hwait .permute)) (fun t => (t.n, t.status.word)) = some (5, 0x0F9) := by decide
theorem test_write_result_while_busy :
    after (busWrite 0x30 5 (running .hwait .permute)) (fun t => (t.result, t.status.word)) = some (0, 0x0F1) := by decide
theorem test_write_cfg : after (busWrite 0x18 0xFFFFFFFFFFFFFFFF ready) State.cfgWord = some 0x1 := by decide
theorem test_irq_follows_done :
    State.irq { done with ie := true } = true ∧ after (exec .clear { done with ie := true }) State.irq = some false ∧
      after (exec .permute { done with ie := true }) State.irq = some false := by decide
theorem test_reset_while_busy :
    after (perform .reset (running .hwait .permute)) (fun t => (t.status.word, t.n, t.ph)) = some (0, 0, .idle) := by
  decide
theorem test_response_after_reset_is_ignored :
    after (perform .hashResponse State.reset) State.hp = some .empty := by decide

/-! ## PRECOMPUTE (vector PC) -/

theorem test_half_bits :
    [1, 2, 3, 4, 5, 15, 16, 17, 63, 64, 65, 256, 257, 0x100000000, 0x100000001, 0x4000000000000000,
      0x4000000000000001, 0xFFFFFFFFFFFFFFFF].map halfBits =
    [1, 1, 1, 1, 2, 2, 2, 3, 3, 3, 4, 4, 5, 16, 17, 31, 32, 32] := by decide
theorem test_precompute_step :
    after (perform (.engine false) { running .pre .precompute with n := 17 })
      (fun t => (t.hbits, t.rmask, t.lmask, t.status.word)) = some (3, 0x7, 0x38, 0x0F2) := by decide

/-! ## The datapath (vectors FA, RF) and the walk (vectors CW, WL) -/

theorem test_forward_rounds :
    ready.network.split 0x6 = (1, 2) ∧ combineFwd (1, 2) 1 = (2, 0) ∧ combineFwd (2, 0) 2 = (0, 0) ∧
      combineFwd (0, 0) 3 = (0, 3) ∧ ready.network.join (0, 3) = 0x3 := by decide
theorem test_backward_rounds :
    ready.network.split 0x3 = (0, 3) ∧ combineBwd (0, 3) 3 = (0, 0) ∧ combineBwd (0, 0) 2 = (2, 0) ∧
      combineBwd (2, 0) 1 = (1, 2) ∧ ready.network.join (1, 2) = 0x6 := by decide
theorem test_upper_bits_are_dropped : ready.network.split 0xFFFFFFFFFFFFFFF6 = (1, 2) := by decide
theorem test_full_width_join :
    Network.join { h := 32, lmask := 0xFFFFFFFF00000000, rmask := 0xFFFFFFFF, key0 := 0, key1 := 0, key2 := 0 }
      (0x01234567, 0x89ABCDEE) = 0x0123456789ABCDEE := by decide
theorem test_last_forward_round_recombines :
    let t := completeRound 3 { running .hwait .encode with rnd := 2, wl := 0, wr := 0 }
    (t.u, t.wc, t.ph) = (0x3, 1, .check) := by decide
theorem test_roundf_result :
    let t := completeRound 0x0123456789ABCDEE (running .hwait .roundf)
    (t.result, t.wcount, t.status.word) = (0x2, 0, 0x0F2) := by decide
theorem test_setup_key_order :
    (setupStep (running .setup .permute)).rnd = 0 ∧ (setupStep (running .setup .invert)).rnd = 2 := by decide
theorem test_check_walks_on : (checkStep { running .check .permute with u := 13, wc := 1 }).ph = .setup := by decide
theorem test_check_walk_limit :
    let t := checkStep { running .check .permute with u := 14, wc := 2, wlimit := 2 }
    (t.status.word, t.wcount, t.result) = (0x6F4, 2, 0) := by decide
theorem test_check_lands_at_the_cap :
    let t := checkStep { running .check .permute with u := 2, wc := 3, wlimit := 3 }
    (t.status.word, t.wcount, t.result) = (0x0F2, 3, 2) := by decide
theorem test_encode_is_not_folded :
    let t := checkStep { running .check .encode with u := 13, wc := 1 }
    (t.status.word, t.wcount, t.result) = (0x0F2, 1, 13) := by decide
theorem test_message :
    (msg 0x123 0xA0).toList = [0, 0, 0, 0, 0, 0, 0, 0xA0, 0, 0, 0, 0, 0, 0, 0, 0] ∧
      (msgWires (msg 0x123 0xA0)).extractLsb' 64 8 = 0xA0 := by decide
theorem test_default_reduction :
    reduceWith defaultSel [0x01, 0x23, 0x45, 0x67, 0x89, 0xAB, 0xCD, 0xEF, 0xFF] = 0x0123456789ABCDEF := by decide

/-! ## States that meet the invariants -/

theorem isHalfBits_five : IsHalfBits 5 2 :=
  ⟨by decide, by decide, fun k hk h => by
    rcases (show k = 1 ∨ 2 ≤ k by omega) with rfl | h2
    · exact absurd h (by decide)
    · exact h2⟩

/-- The triple of `ready`, in any state that holds its registers. -/
theorem tripleOfN_of (s : State) (hn : s.n = 5) (hh : s.hbits = 2) (hr : s.rmask = 0x3) (hl : s.lmask = 0xC) : TripleOfN s := by
  constructor
  · rw [hn, hh]; exact isHalfBits_five
  · rw [hr, hh]; decide
  · rw [hl, hr, hh]; decide
  · rw [hl, hr]; decide
  · rw [hl, hr, hh]; decide

theorem statusInv_ready : StatusInv ready :=
  ⟨by decide, by decide, by decide, by decide, by decide, fun _ => tripleOfN_of _ rfl rfl rfl rfl⟩

/-- `failed` with coming events. -/
theorem statusInv_failed (es : List Event) : StatusInv { failed with inputs := es } := by
  constructor
  case triple => exact fun _ => tripleOfN_of _ rfl rfl rfl rfl
  all_goals simp [failed, ready, State.reset, Status.reset]

/-- `done` with the interrupt enabled and coming events. -/
theorem statusInv_done (es : List Event) : StatusInv { done with ie := true, inputs := es } := by
  constructor
  case triple => exact fun _ => tripleOfN_of _ rfl rfl rfl rfl
  all_goals simp [done, ready, State.reset, Status.reset]

/-- The invariants of a running command say nothing of an idle state. -/
theorem walkInv_of_idle {s : State} (hs : StatusInv s) (hp : s.ph = .idle) (hh : s.hp = .empty) : WalkInv s := by
  have h : EngineInv s := by constructor <;> first | exact hs | (intros; simp_all [Phase.inApplication])
  constructor <;> first | exact h | (intros; simp_all [Phase.inApplication])

theorem walkInv_ready : WalkInv ready := walkInv_of_idle statusInv_ready rfl rfl

theorem wellFormed_ready : ready.network.WellFormed := ⟨by decide, by decide, by decide, by decide⟩

/-- PRECOMPUTE runs. -/
def atPre : State := { running .pre .precompute with inputs := [.engine true] }

theorem walkInv_atPre : WalkInv atPre := by
  have hs : StatusInv atPre :=
    ⟨by decide, by decide, by decide, by decide, by decide, fun _ => tripleOfN_of _ rfl rfl rfl rfl⟩
  have h : EngineInv atPre := by
    constructor <;> first | exact hs | decide | (intros; simp_all [atPre, running, ready, State.reset, Phase.inApplication])
  constructor <;> first | exact h | (intros; simp_all [atPre, running, ready, State.reset, Phase.inApplication])

/-- ROUNDF runs and its digest has come. -/
def atResponse : State :=
  { running .hwait .roundf with
    rnd := 1, hp := .ready (digestOf (msg 2 0xB1)), inputs := [.engine true] }

theorem walkInv_atResponse : WalkInv atResponse := by
  have hs : StatusInv atResponse := by
    constructor
    case triple => exact fun _ => tripleOfN_of _ rfl rfl rfl rfl
    all_goals simp [atResponse, running, ready, State.reset, Status.reset]
  have hr : atResponse.request = msg 2 0xB1 := by
    have h1 : atResponse.hashOperand = 2 := by
      show (2 : Word) &&& 0x3 = 2
      decide
    have h2 : atResponse.key atResponse.rnd = 0xB1 := rfl
    rw [State.request, h1, h2]
  have h : EngineInv atResponse := by
    constructor
    · exact hs
    case port_waiting => intro _; rw [hr]; exact .inr rfl
    all_goals
      first
        | decide
        | (intros; simp_all [atResponse, running, ready, State.reset, Phase.inApplication, Opcode.applies, Opcode.folds,
            Status.keyValid])
  constructor
  · exact h
  all_goals
    intros
    simp_all [atResponse, running, ready, State.reset, Phase.inApplication, Opcode.applies, Opcode.folds, Opcode.single]

/-- One application of `op` has ended, with the cap 1. -/
def atCheck (op : Opcode) : State :=
  { running .check op with u := ready.network.apply op 2, wc := 1, wlimit := 1, inputs := [.engine true] }

theorem apply_lt (op : Opcode) : (ready.network.apply op 2).toNat < 4 ^ 2 := by
  have wf := wellFormed_ready
  obtain ⟨a, b⟩ := split_small wf (2 : Word)
  have fwd : ∀ key (lr : Half × Half), lr.1.toNat < 2 ^ ready.network.h ∧ lr.2.toNat < 2 ^ ready.network.h →
      (ready.network.roundFwd key lr).1.toNat < 2 ^ ready.network.h ∧
        (ready.network.roundFwd key lr).2.toNat < 2 ^ ready.network.h :=
    fun _ _ h => ⟨h.2, xor_round_toNat_lt wf _ h.1⟩
  have bwd : ∀ key (lr : Half × Half), lr.1.toNat < 2 ^ ready.network.h ∧ lr.2.toNat < 2 ^ ready.network.h →
      (ready.network.roundBwd key lr).1.toNat < 2 ^ ready.network.h ∧
        (ready.network.roundBwd key lr).2.toNat < 2 ^ ready.network.h :=
    fun _ _ h => ⟨xor_round_toNat_lt wf _ h.2, h.1⟩
  rw [Network.apply]
  split
  · obtain ⟨h1, h2⟩ := fwd ready.network.key2 _ (fwd ready.network.key1 _ (fwd ready.network.key0 _ ⟨a, b⟩))
    exact join_toNat_lt wf h1 h2
  · obtain ⟨h1, h2⟩ := bwd ready.network.key0 _ (bwd ready.network.key1 _ (bwd ready.network.key2 _ ⟨a, b⟩))
    exact join_toNat_lt wf h1 h2

theorem walkInv_atCheck (op : Opcode) (hop : op.applies) : WalkInv (atCheck op) := by
  have hs : StatusInv (atCheck op) := by
    constructor
    case triple => exact fun _ => tripleOfN_of _ rfl rfl rfl rfl
    all_goals simp [atCheck, running, ready, State.reset, Status.reset]
  have h : EngineInv (atCheck op) :=
    ⟨hs, by simp [atCheck, running], fun _ => hop, by simp [atCheck, running], fun _ => rfl, fun _ _ => rfl,
      by rintro _ h; have h : op = .roundf := h
         rw [h] at hop; simp [Opcode.applies] at hop,
      fun _ _ => (by decide : (2 : Word) < 5), fun _ => rfl, by simp [atCheck, running], by simp [atCheck, running],
      fun _ => apply_lt op⟩
  exact ⟨h, fun _ _ => rfl, by simp [atCheck, running], by simp [atCheck, running],
    fun _ _ j h1 h2 => absurd (show j ≤ 0 from h2) (by omega), fun _ => (by decide : 1 ≤ (1 : Word).toNat),
    by simp [atCheck, running], fun _ _ _ => (by decide : (1 : Word) ≤ 1), by simp [atCheck, running], fun _ _ => rfl⟩

/-- The step from `atCheck` ends the command: it lands, or it reaches the cap. -/
theorem atCheck_ends (op : Opcode) : ∃ t, step (atCheck op) = .next t ∧ t.status.busy = false := by
  refine ⟨_, rfl, ?_⟩
  rcases checkStep_cases (atCheck op).advance with ⟨_, e⟩ | ⟨_, _, _, _, e⟩ | ⟨_, _, h | h, _⟩
  · exact (congrArg (fun t : State => t.status.busy) e).trans rfl
  · exact (congrArg (fun t : State => t.status.busy) e).trans rfl
  · exact absurd (show (1 : Word) = 0 from h) (by decide)
  · exact absurd (show (1 : Word) < 1 from h) (by decide)

/-! ## Witnesses

Each theorem shows concrete states and operands that meet the hypotheses of the statement it is named after, one conjunct for each
clause, at boundary values where the clause has a range. Statements without hypotheses have none. -/

theorem witness_DecodeEncodeAgree :
    (Instr.roundf 2).wellFormed = true ∧ decode 0x26 = .command (.roundf 2) := by decide

theorem witness_CommandWordsDecode : (2 : BitVec 2).toNat ≤ 2 := by decide

theorem witness_IllegalWordsAreErrors :
    (legal 0x08 = false ∧ legal 0x40 = false ∧ legal 0x12 = false ∧ legal 0x36 = false) ∧
      (ready.status.busy = false ∧ ready.status.err = false) ∧ (running .hreq .encode).status.busy = true ∧
      failed.status.err = true := by decide

theorem witness_StepRunsDecodedCommand :
    ({ ready with inputs := [wr 0x08 0x26] } : State).fetchWord = some 0x26 ∧ decode 0x26 = .command (.roundf 2) := by decide

theorem witness_NopHasNoEffect :
    ready.status.busy = false ∧ (running .check .invert).status.busy = true ∧
      ((0x40 : Word).extractLsb' 0 4 = 0 ∧ (0x40 : Word).extractLsb' 6 58 ≠ 0) := by decide

theorem witness_ClearAcknowledges :
    ready.status.busy = false ∧ (running .pre .precompute).status.busy = true ∧ failed.status.word = 0x05F4 := by decide

theorem witness_PrecomputeStartsUnlessZero :
    (ready.status.busy = false ∧ ready.status.err = false ∧ ready.n ≠ 0) ∧
      (State.reset.status.busy = false ∧ State.reset.status.err = false ∧ State.reset.n = 0) := by decide

theorem witness_EncodeAndDecodeStart :
    ready.status.busy = false ∧ ready.status.err = false ∧ ready.status.preValid = true ∧ ready.status.kv0 = true ∧
      ready.status.kv1 = true ∧ ready.status.kv2 = true := by decide

theorem witness_PermuteAndInvertStart :
    ready.status.busy = false ∧ ready.status.err = false ∧ ready.status.preValid = true ∧ ready.status.kv0 = true ∧
      ready.status.kv1 = true ∧ ready.status.kv2 = true ∧
      ({ ready with index := 4 } : State).index.toNat < ({ ready with index := 4 } : State).n.toNat := by decide

theorem witness_RoundfStarts :
    ready.status.busy = false ∧ ready.status.err = false ∧ ready.status.preValid = true ∧
      ((2 : Fin 3) = 0 → ready.status.kv0 = true) ∧ ((2 : Fin 3) = 1 → ready.status.kv1 = true) ∧
      ((2 : Fin 3) = 2 → ready.status.kv2 = true) := by decide

theorem witness_AcceptErrorsInOrder :
    (State.reset.status.busy = false ∧ State.reset.status.err = false ∧ State.reset.status.preValid = false) ∧
      (ready.status.preValid = true ∧ ({ ready.status with kv1 := false } : Status).kv1 = false) ∧
      ((2 : BitVec 2) = 2 ∧ ({ ready.status with kv2 := false } : Status).kv2 = false) ∧
      (ready.status.kv0 = true ∧ ready.status.kv1 = true ∧ ready.status.kv2 = true ∧
        ({ ready with index := 5 } : State).n.toNat ≤ ({ ready with index := 5 } : State).index.toNat) := by decide

theorem witness_DroppedCommandWords :
    (running .setup .permute).status.busy = true ∧ (failed.status.busy = false ∧ failed.status.err = true) := by decide

theorem witness_WritesWithoutEffect :
    ((0x01 : BitVec 7).toNat % 8 ≠ 0) ∧ (0x78 ≤ (0x78 : BitVec 7).toNat) ∧ (0x78 ≤ (0x7F : BitVec 7).toNat) := by decide

theorem witness_BusyWritesAreDropped :
    (running .hwait .permute).status.busy = true ∧
      ({ running .hwait .permute with inputs := [wr 0x20 7] } : State).nextEvent ≠ .reset ∧
      after (step { running .hwait .permute with inputs := [wr 0x20 7] }) State.n = some 5 := by decide

theorem witness_IdleWritesOfOperands : ready.status.busy = false := by decide

theorem witness_PrecomputeStepWritesTriple : atPre.ph = .pre := by decide

theorem witness_HalfBitsIsLeast :
    1 ≤ (1 : Word).toNat ∧ (1 ≤ (0x4000000000000000 : Word).toNat ∧ (0x4000000000000000 : Word).toNat ≤ 2 ^ 62) := by decide

theorem witness_HalfBitsClosedFormAndRange : 1 ≤ (0xFFFFFFFFFFFFFFFF : Word).toNat := by decide

theorem witness_HashPortByteLanes (x : BitVec (8 * digestBytes)) : 0 < (digestOfWires x).length := by
  have h : 8 ≤ digestBytes := le_trans (le_max_left _ _) (Nat.le_add_right _ _)
  simp only [digestOfWires, List.length_map, List.length_range]
  omega

theorem witness_DefaultReductionIsBigEndian :
    8 ≤ (List.replicate 8 (0x5A : Byte)).length ∧ 8 ≤ ((0xFF : Byte) :: List.replicate 7 (0x5A : Byte)).length ∧
      (∀ i, 8 - (32 + 7) / 8 ≤ i → i ≤ 7 →
        (List.replicate 8 (0x5A : Byte)).getD i 0 = ((0xFF : Byte) :: List.replicate 7 (0x5A : Byte)).getD i 0) := by
  refine ⟨by decide, by decide, ?_⟩
  intro i h1 h2
  interval_cases i <;> rfl

theorem witness_SetupStepSplits : (running .setup .invert).ph = .setup := by decide

theorem witness_HashRequestAndResponse :
    ((running .hreq .roundf).ph = .hreq ∧ (running .hreq .roundf).hp = .empty ∧ (true = true)) ∧
      (false = false) ∧ ({ ready with hp := .pending (msg 0 0xA0) } : State).hp = .pending (msg 0 0xA0) ∧
      ready.hp = .empty ∧ ({ ready with hp := .ready [0] } : State).hp = .ready [0] := by decide

theorem witness_HashRequestAndResponse_wires :
    (running .hreq .roundf).hreqValid = true ∧
      after (perform (.engine true) (running .hreq .roundf)) (fun t => t.sent.length) = some 1 ∧
      after (perform (.engine false) (running .hreq .roundf)) (fun t => t.sent.length) = some 0 := by decide

/-- A response of the request is there, in the round with key `r`. -/
def atRound (op : Opcode) (r : Fin 3) : State :=
  { running .hwait op with rnd := r, hp := .ready (digestOf { running .hwait op with rnd := r }.request) }

theorem witness_ForwardRoundCompletes :
    ((atRound .encode 0).ph = .hwait ∧ (atRound .encode 0).hp = .ready (digestOf (atRound .encode 0).request) ∧
      ((atRound .encode 0).op = .encode ∨ (atRound .encode 0).op = .permute) ∧ (atRound .encode 0).rnd ≠ 2) ∧
    ((atRound .permute 2).ph = .hwait ∧ (atRound .permute 2).hp = .ready (digestOf (atRound .permute 2).request) ∧
      ((atRound .permute 2).op = .encode ∨ (atRound .permute 2).op = .permute) ∧ (atRound .permute 2).rnd = 2) :=
  ⟨⟨rfl, rfl, .inl rfl, by decide⟩, rfl, rfl, .inr rfl, rfl⟩

theorem witness_BackwardRoundCompletes :
    ((atRound .decode 2).ph = .hwait ∧ (atRound .decode 2).hp = .ready (digestOf (atRound .decode 2).request) ∧
      ((atRound .decode 2).op = .decode ∨ (atRound .decode 2).op = .invert) ∧ (atRound .decode 2).rnd ≠ 0) ∧
    ((atRound .invert 0).ph = .hwait ∧ (atRound .invert 0).hp = .ready (digestOf (atRound .invert 0).request) ∧
      ((atRound .invert 0).op = .decode ∨ (atRound .invert 0).op = .invert) ∧ (atRound .invert 0).rnd = 0) :=
  ⟨⟨rfl, rfl, .inl rfl, by decide⟩, rfl, rfl, .inr rfl, rfl⟩

theorem witness_RoundfCompletes :
    atResponse.ph = .hwait ∧ atResponse.hp = .ready (digestOf (msg 2 0xB1)) ∧ atResponse.op = .roundf := ⟨rfl, rfl, rfl⟩

theorem witness_CheckStepDecides : (running .check .permute).ph = .check := by decide

theorem witness_StatusInvKept :
    StatusInv ready ∧ ∃ t, step { ready with inputs := [wr 0x08 0x4] } = .next t ∧ t.status.word = 0x0F1 :=
  ⟨statusInv_ready, _, rfl, by decide⟩

theorem witness_EngineInvKept : EngineInv atPre ∧ ∃ t, step atPre = .next t ∧ t.status.word = 0x0F2 :=
  ⟨walkInv_atPre.engine, _, rfl, by decide⟩

theorem witness_WalkInvKept : WalkInv atPre ∧ ∃ t, step atPre = .next t ∧ t.status.word = 0x0F2 :=
  ⟨walkInv_atPre, _, rfl, by decide⟩

theorem witness_FinishedCommandIsRight_precompute :
    WalkInv atPre ∧ atPre.status.busy = true ∧ (∃ t, step atPre = .next t ∧ t.status.busy = false) ∧
      atPre.nextEvent ≠ .reset ∧ atPre.op = .precompute :=
  ⟨walkInv_atPre, by decide, ⟨_, rfl, by decide⟩, by decide, by decide⟩

theorem witness_FinishedCommandIsRight_roundf :
    WalkInv atResponse ∧ atResponse.status.busy = true ∧ (∃ t, step atResponse = .next t ∧ t.status.busy = false) ∧
      atResponse.nextEvent ≠ .reset ∧ atResponse.op = .roundf :=
  ⟨walkInv_atResponse, rfl, ⟨_, rfl, rfl⟩, by rintro ⟨⟩, rfl⟩

theorem witness_FinishedCommandIsRight_applications :
    ∀ op, op = .encode ∨ op = .decode ∨ op = .permute ∨ op = .invert →
      WalkInv (atCheck op) ∧ (atCheck op).status.busy = true ∧
        (∃ t, step (atCheck op) = .next t ∧ t.status.busy = false) ∧ (atCheck op).nextEvent ≠ .reset ∧
        (atCheck op).op = op :=
  fun op h => ⟨walkInv_atCheck op h, rfl, atCheck_ends op, by rintro ⟨⟩, rfl⟩

theorem witness_EncodeDecodeInverse : ready.network.WellFormed ∧ (15 : Word).toNat < 4 ^ ready.network.h :=
  ⟨wellFormed_ready, by decide⟩

theorem witness_ApplicationClosedForm :
    ready.network.WellFormed ∧ (15 : Word).toNat < 4 ^ ready.network.h ∧
      ∃ c0 c1 c2, c0 = keyDigest ready.network.key0 &&& ready.network.rmask ∧
        c1 = keyDigest ready.network.key1 &&& ready.network.rmask ∧ c2 = keyDigest ready.network.key2 &&& ready.network.rmask :=
  ⟨wellFormed_ready, by decide, _, _, _, rfl, rfl, rfl⟩

theorem witness_WalkTerminates :
    ready.network.WellFormed ∧ (5 : Word).toNat ≤ 4 ^ ready.network.h ∧ (4 : Word) < 5 := ⟨wellFormed_ready, by decide, by decide⟩

theorem witness_WalkIsBijection :
    ready.network.WellFormed ∧ 1 ≤ (5 : Word).toNat ∧ (5 : Word).toNat ≤ 4 ^ ready.network.h ∧ (4 : Word) < 5 :=
  ⟨wellFormed_ready, by decide, by decide, by decide⟩

theorem witness_PowerOfFourWalksOnce :
    (ready.network.WellFormed ∧ ready.network.h = halfBits 16 ∧ 1 ≤ 2 ∧ (16 : Word).toNat = 4 ^ 2 ∧ (15 : Word) < 16) ∧
      (0 : Word) < 1 :=
  ⟨⟨wellFormed_ready, by decide, by decide, by decide, by decide⟩, by decide⟩

theorem witness_ApplicationRunsToEnd :
    ready.status.busy = false ∧ ready.hp = .empty ∧
      (∃ t, exec .encode ready = .next t ∧ t.status.busy = true) ∧ (∃ t, exec .decode ready = .next t ∧ t.status.busy = true) :=
  ⟨by decide, by decide, ⟨_, rfl, by decide⟩, _, rfl, by decide⟩

theorem witness_RoundfAndPrecomputeRunToEnd :
    ready.status.busy = false ∧ ready.hp = .empty ∧
      (∃ t, exec (.roundf (BitVec.ofNat 2 (2 : Fin 3).val)) ready = .next t ∧ t.status.busy = true) ∧
      (∃ t, exec .precompute ready = .next t ∧ t.status.busy = true) :=
  ⟨by decide, by decide, ⟨_, rfl, by decide⟩, _, rfl, by decide⟩

theorem witness_UncappedWalkRunsToEnd :
    WalkInv ready ∧ ready.status.busy = false ∧ ready.wlimit = 0 ∧
      (∃ t, exec .permute ready = .next t ∧ t.status.busy = true) ∧ (∃ t, exec .invert ready = .next t ∧ t.status.busy = true) :=
  ⟨walkInv_ready, by decide, by decide, ⟨_, rfl, by decide⟩, _, rfl, by decide⟩

/-- `ready` with `N = 16`, where every application lands, and a cap. -/
def sixteen (cap : Word) : State := { ready with n := 16, wlimit := cap }

theorem walkInv_sixteen (cap : Word) : WalkInv (sixteen cap) := by
  refine walkInv_of_idle ?_ rfl rfl
  constructor
  case triple =>
    intro _
    refine ⟨⟨?_, ?_, fun k hk h => ?_⟩, ?_, ?_, ?_, ?_⟩
    case refine_3 =>
      rcases (show k = 1 ∨ 2 ≤ k by omega) with rfl | h2
      · exact absurd (show (16 : Word).toNat ≤ 4 ^ 1 from h) (by decide)
      · exact h2
    all_goals simp [sixteen, ready, State.reset]
  all_goals simp [sixteen, ready, State.reset, Status.reset]

theorem sixteen_walks (op : Opcode) : WalksTo (ready.network.apply op) 16 2 1 (ready.network.apply op 2) :=
  ⟨le_refl _, rfl, BitVec.lt_def.2 (apply_lt op), by omega⟩

/-- The events of one application with the host polling `STATUS`, writing `N` and an engine turn with `hreq_ready = 0` between. -/
def polled : List Event :=
  [.host (readOf .status), .engine true, .engine false, wr 0x20 7, .hashResponse] ++ applicationEvents.drop 1

theorem witness_UncappedWalkRunsToEnd_ends :
    WalkInv (sixteen 0) ∧ (sixteen 0).status.busy = false ∧ (sixteen 0).wlimit = 0 ∧ .reset ∉ polled ∧
      (exec .permute (sixteen 0) = .next ((sixteen 0).startFromIndex .permute) ∧
        WalksTo (sixteen 0).network.encode 16 2 1 ((sixteen 0).network.encode 2) ∧
        8 * 1 ≤ engineSteps polled.length (((sixteen 0).startFromIndex .permute).withInputs polled)) ∧
      (exec .invert (sixteen 0) = .next ((sixteen 0).startFromIndex .invert) ∧
        WalksTo (sixteen 0).network.decode 16 2 1 ((sixteen 0).network.decode 2) ∧
        8 * 1 ≤ engineSteps polled.length (((sixteen 0).startFromIndex .invert).withInputs polled)) :=
  ⟨walkInv_sixteen 0, rfl, rfl, by decide, ⟨rfl, sixteen_walks .permute, by decide⟩, rfl, sixteen_walks .invert, by decide⟩

/-- `ready` with the cap 1. -/
def capped : State := { ready with wlimit := 1 }

theorem witness_CappedWalkRunsToEnd :
    WalkInv capped ∧ capped.status.busy = false ∧ capped.wlimit ≠ 0 ∧
      (∃ t, exec .permute capped = .next t ∧ t.status.busy = true) ∧ (∃ t, exec .invert capped = .next t ∧ t.status.busy = true) := by
  refine ⟨walkInv_of_idle ?_ rfl rfl, by decide, by decide, ⟨_, rfl, by decide⟩, _, rfl, by decide⟩
  constructor
  case triple => exact fun _ => tripleOfN_of _ rfl rfl rfl rfl
  all_goals simp [capped, ready, State.reset, Status.reset]

theorem witness_CappedWalkRunsToEnd_lands :
    WalkInv (sixteen 1) ∧ (sixteen 1).status.busy = false ∧ (sixteen 1).wlimit ≠ 0 ∧ .reset ∉ polled ∧
      1 ≤ (sixteen 1).wlimit.toNat ∧
      (exec .permute (sixteen 1) = .next ((sixteen 1).startFromIndex .permute) ∧
        WalksTo (sixteen 1).network.encode 16 2 1 ((sixteen 1).network.encode 2) ∧
        8 * 1 ≤ engineSteps polled.length (((sixteen 1).startFromIndex .permute).withInputs polled)) ∧
      (exec .invert (sixteen 1) = .next ((sixteen 1).startFromIndex .invert) ∧
        WalksTo (sixteen 1).network.decode 16 2 1 ((sixteen 1).network.decode 2) ∧
        8 * 1 ≤ engineSteps polled.length (((sixteen 1).startFromIndex .invert).withInputs polled)) :=
  ⟨walkInv_sixteen 1, rfl, by decide, by decide, by decide, ⟨rfl, sixteen_walks .permute, by decide⟩, rfl,
    sixteen_walks .invert, by decide⟩

/-- The masked key digest of the key 0xA0, two bits that the hash decides. -/
def digestBits : Word := roundF 0 0xA0 3

/-- `capped` with three equal keys and an `INDEX` whose first application is 8, which is outside `[0, 5)`, whatever the hash is. -/
def missing : State := { capped with key0 := 0xA0, key1 := 0xA0, key2 := 0xA0, index := 2 ^^^ digestBits }

theorem digestBits_cases : digestBits = 0 ∨ digestBits = 1 ∨ digestBits = 2 ∨ digestBits = 3 := by
  have h : digestBits.toNat < 2 ^ 2 := by
    rw [digestBits, roundF]
    exact and_rmask_toNat_lt wellFormed_ready _
  rcases (show digestBits.toNat = 0 ∨ digestBits.toNat = 1 ∨ digestBits.toNat = 2 ∨ digestBits.toNat = 3 by omega) with
    e | e | e | e
  · exact .inl (BitVec.eq_of_toNat_eq e)
  · exact .inr (.inl (BitVec.eq_of_toNat_eq e))
  · exact .inr (.inr (.inl (BitVec.eq_of_toNat_eq e)))
  · exact .inr (.inr (.inr (BitVec.eq_of_toNat_eq e)))

theorem missing_encode : missing.network.encode missing.index = 8 := by
  have hm : ∀ v : Word, msg v 0xA0 = msg 0 0xA0 := fun v => by
    ext i hi
    simp only [msg, msgWrite, Vector.getElem_ofFn]
    split <;> simp_all
  have hf : ∀ v : Word, roundF v 0xA0 3 = digestBits := fun v => by rw [digestBits, roundF, roundF, hm]
  have hr : ∀ lr, missing.network.roundFwd 0xA0 lr = combineFwd lr digestBits := fun lr => congrArg (combineFwd lr) (hf _)
  show missing.network.join (missing.network.roundFwd 0xA0 (missing.network.roundFwd 0xA0 (missing.network.roundFwd 0xA0
    (missing.network.split (2 ^^^ digestBits))))) = 8
  rw [hr, hr, hr]
  rcases digestBits_cases with e | e | e | e <;> rw [e] <;> decide

theorem missing_index : missing.index < missing.n := by
  show 2 ^^^ digestBits < (5 : Word)
  rcases digestBits_cases with e | e | e | e <;> rw [e] <;> decide

theorem missing_starts : exec .permute missing = .next (missing.startFromIndex .permute) := by
  have h : beginWalk .permute missing = missing.startFromIndex .permute := by
    rcases beginWalk_cases .permute missing with ⟨h, _⟩ | ⟨_, h, _⟩ | ⟨_, _, h, _⟩ | ⟨_, _, _, e⟩
    · exact absurd (show true = false from h) (by decide)
    · exact absurd (show true = false from h) (by decide)
    · exact absurd h (BitVec.not_le.2 missing_index)
    · exact e
  exact congrArg _ ((acceptUnlessErr_idle _ missing rfl rfl).trans h)

theorem witness_CappedWalkRunsToEnd_misses :
    WalkInv missing ∧ missing.status.busy = false ∧ missing.wlimit ≠ 0 ∧ .reset ∉ polled ∧
      exec .permute missing = .next (missing.startFromIndex .permute) ∧
      Misses missing.network.encode missing.n missing.index missing.wlimit.toNat ∧
      8 * missing.wlimit.toNat ≤ engineSteps polled.length ((missing.startFromIndex .permute).withInputs polled) := by
  refine ⟨walkInv_of_idle ?_ rfl rfl, rfl, by decide, by decide, missing_starts, fun j h1 h2 => ?_, ?_⟩
  · constructor
    case triple => exact fun _ => tripleOfN_of _ rfl rfl rfl rfl
    all_goals simp [missing, capped, ready, State.reset, Status.reset]
  · have h2 : j ≤ 1 := h2
    obtain rfl : j = 1 := by omega
    exact (congrArg (missing.n ≤ ·) missing_encode).mpr (by decide)
  · exact (by decide : 8 * 1 ≤ 8)

/-- A run in which the host polls `STATUS` first and the engine has every later turn, from `atPre`. -/
def pollThenEngine : Nat → Event
  | 0 => .host (readOf .status)
  | _ + 1 => .engine true

/-- The state in which PRECOMPUTE has ended. -/
def ended : State := { precomputeStep atPre with inputs := [], resp := none }

/-- The states of that run. -/
def pollThenEngineStates : Nat → State
  | 0 => atPre
  | 1 => { atPre with inputs := [], resp := some { rdata := 0x0F1, err := false } }
  | _ + 2 => ended

theorem witness_RunningCommandEnds_work :
    WalkInv atPre ∧ ∀ j t, j ≤ 0 → Sys2Proof.core.run j atPre = Host.Outcome.next t → t.status.busy = true := by
  refine ⟨walkInv_atPre, fun j t hj h => ?_⟩
  obtain rfl : j = 0 := by omega
  cases h
  rfl

theorem witness_RunningCommandEnds_fair :
    IsRun pollThenEngine pollThenEngineStates ∧ WalkInv (pollThenEngineStates 0) ∧
      (pollThenEngineStates 0).status.busy = true ∧ EngineFair pollThenEngine pollThenEngineStates ∧
      HashReady pollThenEngine pollThenEngineStates ∧ HashAnswers pollThenEngine pollThenEngineStates := by
  refine ⟨?_, walkInv_atPre, rfl, ?_, ?_, ?_⟩
  · intro k
    match k with
    | 0 => rfl
    | 1 => rfl
    | _ + 2 => rfl
  · exact fun k h => absurd (h (k + 2) (by omega)) (by simp [pollThenEngineStates, engineEnabled, ended])
  · exact fun k h => absurd (h (k + 2) (by omega)) (by simp [pollThenEngineStates, State.hreqValid, ended])
  · exact fun k h => absurd (h (k + 2) (by omega)) (by simp [pollThenEngineStates, hashEnabled, ended]; decide)

/-- A command that waits for a response, or for `hreq_ready`. -/
def stuckAt (ph : Phase) (hp : HashPort) : State := { running ph .encode with hp := hp }

theorem witness_RunningCommandEnds_forever :
    (IsRun (fun _ => .engine true) (fun _ => stuckAt .hwait (.pending (msg 0 0xA0))) ∧
      EngineFair (fun _ => .engine true) (fun _ => stuckAt .hwait (.pending (msg 0 0xA0))) ∧
      (stuckAt .hwait (.pending (msg 0 0xA0))).status.busy = true) ∧
    (IsRun (fun _ => .engine false) (fun _ => stuckAt .hreq .empty) ∧
      EngineFair (fun _ => .engine false) (fun _ => stuckAt .hreq .empty) ∧ (stuckAt .hreq .empty).status.busy = true) :=
  ⟨⟨fun _ => rfl, fun k _ => ⟨k, le_refl _, _, rfl⟩, rfl⟩, fun _ => rfl, fun k _ => ⟨k, le_refl _, _, rfl⟩, rfl⟩

theorem witness_RunningCommandEnds_alternation :
    (WalkInv atPre ∧ atPre.status.busy = true) ∧ (WalkInv (atCheck .permute) ∧ (atCheck .permute).status.busy = true) :=
  ⟨⟨walkInv_atPre, by decide⟩, walkInv_atCheck _ (.inr (.inr (.inl rfl))), rfl⟩

theorem witness_ErrorsAreRecorded :
    after (step { State.reset with inputs := [wr 0x08 0x1] }) State.raised = some [.nZero] ∧
      after (step { ready with inputs := [wr 0x08 0x0] }) State.raised = some [] := by decide

theorem witness_ErrorsDoNotNest :
    (StatusInv { failed with inputs := [wr 0x08 0x7] } ∧
      after (step { failed with inputs := [wr 0x08 0x7] }) (fun t => t.status.err) = some false) ∧
    (StatusInv { failed with inputs := [wr 0x08 0x4] } ∧
      after (step { failed with inputs := [wr 0x08 0x4] }) (fun t => t.status.errCode) = some 5) :=
  ⟨⟨statusInv_failed _, by decide⟩, statusInv_failed _, by decide⟩

theorem witness_DropIsNoError :
    (running .hreq .encode).status.rej = false ∧
      after (step { running .hreq .encode with inputs := [wr 0x20 7] }) (fun t => t.status.rej) = some true := by decide

theorem witness_HostCannotStopCommand :
    (running .hwait .invert).status.busy = true ∧
      statusAfter (perform (wr 0x08 0x7) (running .hwait .invert)) = some 0x0F9 := by decide

theorem witness_ValidityIsKept :
    (ready.status.preValid = true ∧
      after (step { ready with inputs := [wr 0x20 5] }) (fun t => t.status.preValid) = some false) ∧
    (ready.status.kv2 = true ∧ after (step { ready with inputs := [.reset] }) (fun t => t.status.kv2) = some false) := by decide

theorem witness_ResultAndCountWrittenAtEnd :
    EngineInv (atCheck .permute) ∧ (atCheck .permute).nextEvent ≠ .reset ∧ (atCheck .permute).ph = .check ∧
      (∃ t, step (atCheck .permute) = .next t ∧ t.status.busy = false) :=
  ⟨(walkInv_atCheck _ (.inr (.inr (.inl rfl)))).engine, by rintro ⟨⟩, rfl, atCheck_ends _⟩

/-- As `atCheck .encode`, with the value 3 computed. -/
def atCheckThree : State := { atCheck .encode with u := 3 }

theorem witness_ResultAndCountWrittenAtEnd_written :
    EngineInv atCheckThree ∧ atCheckThree.nextEvent ≠ .reset ∧ atCheckThree.op.applies ∧
      (∃ t, step atCheckThree = .next t ∧ t.status.busy = false ∧ t.status.done = true ∧ t.result ≠ atCheckThree.result ∧
        t.wcount ≠ atCheckThree.wcount) := by
  have h := (walkInv_atCheck .encode (.inl rfl)).engine
  have st := h.status
  refine ⟨⟨⟨st.1, st.2, st.3, st.4, st.5, fun _ => tripleOfN_of _ rfl rfl rfl rfl⟩, h.2, h.3, h.4, h.5, h.6, h.7, h.8, h.9,
    h.10, h.11, fun _ => (by decide : (3 : Word).toNat < 4 ^ 2)⟩, by rintro ⟨⟩, .inl rfl, _, rfl, rfl, rfl, ?_, ?_⟩
  · exact (by decide : (3 : Word) ≠ 0)
  · exact (by decide : (1 : Word) ≠ 0)

theorem witness_ResultAndCountWrittenAtEnd_roundf :
    EngineInv atResponse ∧ atResponse.nextEvent ≠ .reset ∧ atResponse.op = .roundf ∧
      (∃ t, step atResponse = .next t ∧ t.status.busy = false ∧ t.status.done = true) :=
  ⟨walkInv_atResponse.engine, by rintro ⟨⟩, rfl, _, rfl, rfl, rfl⟩

theorem witness_IrqLevelAndClearing :
    ∀ e ∈ [Event.reset, wr 0x18 0, wr 0x08 0x7, wr 0x08 0x4],
      StatusInv { done with ie := true, inputs := [e] } ∧ State.irq { done with ie := true, inputs := [e] } = true ∧
        after (step { done with ie := true, inputs := [e] }) State.irq = some false := by
  intro e he
  refine ⟨statusInv_done _, rfl, ?_⟩
  revert e
  decide

theorem witness_HostStatementsRun : HostStmt.cmd .permute ≠ .wait := by decide

end Sys2Proof.Tests
end

section
/-! PROOF. What a step other than reset does to `RESULT` and `WCOUNT` and to the end of a command, said once; then O58
(10_state.md R37, R49). -/

namespace Sys2Proof.Machine

/-- The step from `s` to `t` writes neither `RESULT` nor `WCOUNT` and ends no command. -/
structure KeepsResult (s t : State) : Prop where
  result : t.result = s.result
  wcount : t.wcount = s.wcount
  busy : s.status.busy = true → t.status.busy = true

/-- What a step other than reset does to `RESULT`, `WCOUNT` and the end of a command: it keeps them, or it is the last engine
step of a command (40_precompute.md R121; 41_round_function.md R157; 43_cycle_walk.md R203). -/
inductive ResultEffect (s t : State) : Prop
  | keeps : KeepsResult s t → ResultEffect s t
  | precompute : s.ph = .pre → t.result = s.result → t.wcount = s.wcount → ResultEffect s t
  | roundf (d : Digest) : s.ph = .hwait → s.op = .roundf → s.hp = .ready d → t.result = reduce d &&& s.rmask →
      t.wcount = s.wcount → t.status.busy = false → t.status.done = true → ResultEffect s t
  | land : s.ph = .check → t.result = s.u → t.wcount = s.wc → t.status.busy = false → t.status.done = true →
      ResultEffect s t
  | cap : s.ph = .check → t.result = s.result → t.wcount = s.wc → t.status.busy = false → t.status.done = false →
      t.status.errCode = 6 → ResultEffect s t

theorem AcceptEffect.keepsResult {w : Word} {s t : State} (h : AcceptEffect w s t) : KeepsResult s t := by
  cases h with
  | drop _ => exact ⟨rfl, rfl, id⟩
  | nop _ _ => exact ⟨rfl, rfl, id⟩
  | clear _ _ => exact ⟨rfl, rfl, id⟩
  | error e hidle _ => exact ⟨rfl, rfl, fun hbusy => absurd hbusy (by simp [hidle])⟩
  | precompute => exact ⟨rfl, rfl, fun _ => rfl⟩
  | apply => exact ⟨rfl, rfl, fun _ => rfl⟩
  | roundf => exact ⟨rfl, rfl, fun _ => rfl⟩

theorem HostEffect.keepsResult {tr : BusTransaction} {s t : State} (h : HostEffect tr s t) : KeepsResult s t := by
  cases h with
  | accept t _ _ ha =>
    obtain ⟨hr, hw, hb⟩ := ha.keepsResult
    exact ⟨hr, hw, hb⟩
  | _ => exact ⟨rfl, rfl, id⟩

theorem EngineEffect.resultEffect {s t : State} (h : EngineEffect s t) : ResultEffect s t := by
  cases h with
  | precompute hph => exact .precompute hph rfl rfl
  | roundf d hph hhp hop => exact .roundf d hph hop hhp rfl rfl rfl rfl
  | land hph _ => exact .land hph rfl rfl rfl rfl
  | cap hph _ _ _ _ => exact .cap hph rfl rfl rfl rfl rfl
  | _ => exact .keeps ⟨rfl, rfl, id⟩

/-- Taking an event off the list touches nothing that `ResultEffect` speaks of. -/
theorem ResultEffect.of_advance {s t : State} (h : ResultEffect s.advance t) : ResultEffect s t := by
  rw [advance_eq] at h
  cases h with
  | keeps hk => exact .keeps ⟨hk.result, hk.wcount, hk.busy⟩
  | precompute hph hr hw => exact .precompute hph hr hw
  | roundf d hph hop hhp hr hw hb hd => exact .roundf d hph hop hhp hr hw hb hd
  | land hph hr hw hb hd => exact .land hph hr hw hb hd
  | cap hph hr hw hb hd he => exact .cap hph hr hw hb hd he

theorem step_resultEffect {s t : State} (hreset : s.nextEvent ≠ .reset) (h : step s = .next t) : ResultEffect s t := by
  apply ResultEffect.of_advance
  have heff := step_effect h
  generalize s.nextEvent = e at hreset heff
  cases heff with
  | host tr t ht => exact .keeps ht.keepsResult
  | engine b t ht => exact ht.resultEffect
  | hash m _ => exact .keeps ⟨rfl, rfl, id⟩
  | hashStay _ => exact .keeps ⟨rfl, rfl, id⟩
  | reset => exact absurd rfl hreset

/-- A command whose phase is not `IDLE` is running. -/
theorem EngineInv.busy_of_ph {s : State} (hi : EngineInv s) {ph : Phase} (hph : s.ph = ph) (hne : ph ≠ .idle) :
    s.status.busy = true :=
  hi.status.busy_iff_running.mpr (hph ▸ hne)

/-- The opcodes whose result is the value in `U` are neither PRECOMPUTE nor ROUNDF. -/
theorem Opcode.ne_of_applies {op : Opcode} (h : op.applies) : op ≠ .precompute ∧ op ≠ .roundf := by
  rcases h with rfl | rfl | rfl | rfl <;> decide

section
variable {s t : State} (hi : EngineInv s) (h : ResultEffect s t)
include hi h

/-- 10_state.md R37: only the `finish()` of a computing command writes `RESULT`. -/
theorem ResultEffect.result_changed (hne : t.result ≠ s.result) :
    s.status.busy = true ∧ t.status.busy = false ∧ t.status.done = true ∧ (s.op.applies ∨ s.op = .roundf) := by
  cases h with
  | keeps hk => exact absurd hk.result hne
  | precompute _ hr _ => exact absurd hr hne
  | cap _ hr => exact absurd hr hne
  | roundf d hph hop _ _ _ hb hd => exact ⟨hi.busy_of_ph hph (by decide), hb, hd, .inr hop⟩
  | land hph _ _ hb hd => exact ⟨hi.busy_of_ph hph (by decide), hb, hd, .inl (hi.application_op (.inr hph))⟩

/-- 10_state.md R49: only the end of an application or of a walk writes `WCOUNT`, a capped walk among them. -/
theorem ResultEffect.wcount_changed (hne : t.wcount ≠ s.wcount) :
    s.ph = .check ∧ t.status.busy = false ∧ t.wcount = s.wc ∧ s.op.applies ∧
      (t.status.done = true ∨ t.status.errCode = 6) := by
  cases h with
  | keeps hk => exact absurd hk.wcount hne
  | precompute _ _ hw => exact absurd hw hne
  | roundf _ _ _ _ _ hw => exact absurd hw hne
  | land hph _ hw hb hd => exact ⟨hph, hb, hw, hi.application_op (.inr hph), .inl hd⟩
  | cap hph _ hw hb _ he => exact ⟨hph, hb, hw, hi.application_op (.inr hph), .inr he⟩

theorem ResultEffect.wcount_of_check_ends (hph : s.ph = .check) (hend : t.status.busy = false) : t.wcount = s.wc := by
  cases h with
  | keeps hk => simp [hk.busy (hi.busy_of_ph hph (by decide))] at hend
  | precompute hpre => simp [hph] at hpre
  | roundf _ hwait => simp [hph] at hwait
  | land _ _ hw => exact hw
  | cap _ _ hw => exact hw

theorem ResultEffect.result_of_finished (hbusy : s.status.busy = true) (hend : t.status.busy = false)
    (hdone : t.status.done = true) :
    (s.op.applies → t.result = s.u) ∧ (s.op = .roundf → ∃ d, s.hp = .ready d ∧ t.result = reduce d &&& s.rmask) := by
  cases h with
  | keeps hk => simp [hk.busy hbusy] at hend
  | precompute hph =>
    obtain ⟨hop, _⟩ := hi.pre_op hph
    exact ⟨fun ha => absurd hop (Opcode.ne_of_applies ha).1, fun hr => by simp [hop] at hr⟩
  | roundf d _ hop hhp hr => exact ⟨fun ha => absurd hop (Opcode.ne_of_applies ha).2, fun _ => ⟨d, hhp, hr⟩⟩
  | land hph hr => exact ⟨fun _ => hr, fun hop => absurd hop (Opcode.ne_of_applies (hi.application_op (.inr hph))).2⟩
  | cap _ _ _ _ hd => simp [hd] at hdone

end

/-- Settles O58: each step other than reset has a `ResultEffect`, which the invariant of the engine ties to the opcode. -/
theorem resultAndCountWrittenAtEnd : Obligations.ResultAndCountWrittenAtEnd := by
  refine ⟨rfl, rfl, fun s t hi hreset hstep => ?_⟩
  have h := step_resultEffect hreset hstep
  exact ⟨h.result_changed hi, h.wcount_changed hi, h.wcount_of_check_ends hi, h.result_of_finished hi⟩

end Sys2Proof.Machine
end

section
/-! PROOF. The fields of `ID` for every digest length; then O16 (10_state.md R24). -/

namespace Sys2Proof.Machine

/-- The concatenation of two words is the sum of the upper one, shifted, and the lower one. -/
theorem append_toNat_add {m n : Nat} (x : BitVec m) (y : BitVec n) : (x ++ y).toNat = x.toNat * 2 ^ n + y.toNat := by
  rw [BitVec.toNat_append, ← Nat.shiftLeft_add_eq_or_of_lt y.isLt, Nat.shiftLeft_eq]

/-- `ID` as a number: its five fields, each at its place. -/
theorem idWord_toNat (nbytes : Nat) :
    (idWord nbytes).toNat = 0x46455354 * 2 ^ 32 + 1 * 2 ^ 24 + nbytes % 256 * 2 ^ 16 + 3 * 2 ^ 8 + 3 := by
  simp only [idWord, append_toNat_add, BitVec.toNat_ofNat, Config.nKeys, Config.rounds]
  omega

/-- The fields of `ID`, whatever the digest length. -/
theorem idWord_fields (nbytes : Nat) :
    (idWord nbytes).extractLsb' 0 8 = 3 ∧ (idWord nbytes).extractLsb' 8 8 = 3 ∧
      ((idWord nbytes).extractLsb' 16 8).toNat = nbytes % 256 ∧ (idWord nbytes).extractLsb' 24 8 = 1 ∧
      (idWord nbytes).extractLsb' 32 32 = 0x46455354#32 := by
  simp only [← BitVec.toNat_inj, BitVec.extractLsb'_toNat, Nat.shiftRight_eq_div_pow, idWord_toNat, BitVec.toNat_ofNat,
    BitVec.ofNat_eq_ofNat]
  omega

theorem busRead_id (s : State) : busRead Reg.id.offset s = { rdata := idValue, err := false } := rfl

theorem busWrite_id (v : Word) (s : State) : busWrite Reg.id.offset v s = .next (s.respond writeOk) := rfl

/-- Settles O16: the fields hold for every digest length, and the bus answers and ignores writes at the offset of `ID` in
every state. -/
theorem idRegisterFields : Obligations.IdRegisterFields :=
  ⟨idWord_fields digestBytes, by decide, busRead_id, fun s v => busWrite_id v s⟩

end Sys2Proof.Machine
end

section
/-! PROOF. What a bus transaction does at each offset, said once through the register map: reads, writes to read-only registers,
writes while busy and while idle, and what no step changes while a command runs (20_memory.md R62 to R71); then O17 to O21. -/

namespace Sys2Proof.Machine

/-! ## The register map -/

/-- No register has an offset that is not a multiple of 8 or is 0x78 or above (20_memory.md R64). -/
theorem regAt_eq_none_of_unmapped {off : BitVec 7} (h : off.toNat % 8 ≠ 0 ∨ 0x78 ≤ off.toNat) : regAt off = none := by
  rcases hr : regAt off with _ | r
  · rfl
  · obtain rfl := regAt_eq_some hr
    cases r <;> simp [Reg.offset] at h

/-- Where there is no register, a test for the offset of one fails. -/
theorem ite_offset_eq_of_regAt_eq_none {off o : BitVec 7} (h : regAt off = none) (ho : regAt o ≠ none) (x y : BusResponse) :
    (if off = o then x else y) = y :=
  if_neg (by rintro rfl; exact ho h)

/-- The registers that the host reads but no write changes (10_state.md R21; 20_memory.md R66). -/
def Reg.readOnly : Reg → Bool
  | .id | .status | .result | .lmask | .rmask | .hbits | .wcount => true
  | .cmd | .cfg | .n | .index | .key0 | .key1 | .key2 | .wlimit => false

/-- The registers to which a write is dropped while busy: the operands and `CMD` (20_memory.md R67). -/
def Reg.droppedWhileBusy : Reg → Bool
  | .cmd | .n | .index | .key0 | .key1 | .key2 | .wlimit => true
  | .id | .status | .cfg | .result | .lmask | .rmask | .hbits | .wcount => false

/-! ## Transactions by register -/

theorem perform_read (off : BitVec 7) (d : Word) (s : State) :
    perform (.host { we := false, off := off, wdata := d }) s = .next (s.respond (busRead off s)) := rfl

theorem busRead_offset (r : Reg) (s : State) : busRead r.offset s = { rdata := readReg r s, err := false } := by
  simp only [busRead, regAt_offset]

theorem busRead_eq_busError {off : BitVec 7} (h : regAt off = none) (s : State) : busRead off s = busError := by
  simp only [busRead, h]

theorem perform_write_offset (r : Reg) (v : Word) (s : State) :
    perform (.host { we := true, off := r.offset, wdata := v }) s = writeReg r v (s.respond writeOk) := by
  simp only [perform, hostStep, busWrite, regAt_offset, if_true]

/-- 20_memory.md R64: where there is no register, a read and a write alike are answered by the error response alone. -/
theorem perform_eq_busError (t : BusTransaction) (s : State) (h : regAt t.off = none) :
    perform (.host t) s = .next (s.respond busError) := by
  cases hw : t.we <;> simp [perform, hostStep, busWrite, busRead_eq_busError h, h, hw]

theorem writeReg_readOnly {r : Reg} (hr : r.readOnly = true) (v : Word) (s : State) : writeReg r v s = .next s := by
  cases r with
  | id | status | result | lmask | rmask | hbits | wcount => rfl
  | _ => cases hr

theorem writeWhenIdle_idle (write : State → State) {s : State} (h : s.status.busy = false) :
    writeWhenIdle write s = write s := by
  simp [writeWhenIdle, h]

theorem writeWhenIdle_busy (write : State → State) {s : State} (h : s.status.busy = true) :
    writeWhenIdle write s = s.reject := by
  simp [writeWhenIdle, h]

/-- While not busy a write that `writeWhenIdle` guards takes place. -/
theorem perform_write_idle (r : Reg) {v : Word} {s : State} {write : State → State} (hidle : s.status.busy = false)
    (hr : writeReg r v (s.respond writeOk) = .next (writeWhenIdle write (s.respond writeOk))) :
    perform (.host { we := true, off := r.offset, wdata := v }) s = .next (write (s.respond writeOk)) :=
  calc perform (.host { we := true, off := r.offset, wdata := v }) s
    _ = writeReg r v (s.respond writeOk) := perform_write_offset r v s
    _ = .next (writeWhenIdle write (s.respond writeOk)) := hr
    _ = .next (write (s.respond writeOk)) := congrArg _ (writeWhenIdle_idle write hidle)

/-- 44_control.md R231: while busy every command word, legal or not, is dropped. -/
theorem acceptWord_busy (w : Word) {s : State} (h : s.status.busy = true) : acceptWord w s = .next s.reject := by
  have illegal : acceptIllegal s = s.reject := acceptUnlessErr_busy _ s h
  unfold acceptWord
  split
  next i _ =>
    cases i with
    | nop => exact congrArg _ (acceptAlways_busy _ s h)
    | clear => exact congrArg _ (acceptAlways_busy _ s h)
    | roundf k =>
      simp only [exec, execRoundf]
      split
      · exact congrArg _ (acceptUnlessErr_busy _ s h)
      · exact congrArg _ illegal
    | _ => exact congrArg _ (acceptUnlessErr_busy _ s h)
  next => exact congrArg _ illegal

/-- 20_memory.md R67: while busy a write to an operand register or to `CMD` only sets `REJ`. -/
theorem writeReg_busy {r : Reg} (hr : r.droppedWhileBusy = true) (v : Word) {s : State} (h : s.status.busy = true) :
    writeReg r v s = .next s.reject := by
  cases r with
  | cmd => exact acceptWord_busy v h
  | n | index | key0 | key1 | key2 | wlimit => exact congrArg _ (writeWhenIdle_busy _ h)
  | _ => cases hr

/-! ## The words that registers read as -/

theorem readReg_cfg (s : State) : readReg .cfg s = if s.ie then 1 else 0 := by
  rw [readReg, State.cfgWord]
  cases s.ie <;> rfl

theorem readReg_hbits (s : State) : readReg .hbits s = BitVec.ofNat 64 s.hbits.toNat :=
  (BitVec.ofNat_toNat 64 s.hbits).symm

/-- Bit 0 of a word, as a word. -/
theorem and_one_eq_ite (v : Word) : v &&& 1#64 = if v.getLsbD 0 then 1 else 0 := by
  rw [BitVec.and_one_eq_setWidth_ofBool_getLsbD]
  cases v.getLsbD 0 <;> rfl

/-- 10_state.md R26: the word of `STATUS` holds each field at its bits. -/
theorem statusWord_fields (f : Status) :
    f.word.getLsbD 0 = f.busy ∧ f.word.getLsbD 1 = f.done ∧ f.word.getLsbD 2 = f.err ∧ f.word.getLsbD 3 = f.rej ∧
    f.word.getLsbD 4 = f.preValid ∧ f.word.getLsbD 5 = f.kv0 ∧ f.word.getLsbD 6 = f.kv1 ∧ f.word.getLsbD 7 = f.kv2 ∧
    f.word.extractLsb' 8 4 = f.errCode ∧ f.word.extractLsb' 12 52 = 0 := by
  refine ⟨?_, ?_, ?_, ?_, ?_, ?_, ?_, ?_, ?_, ?_⟩
  case refine_9 | refine_10 =>
    simp (disch := omega) only [Status.word, BitVec.extractLsb'_append_eq_of_le, BitVec.extractLsb'_append_eq_of_add_le]
    simp
  all_goals simp only [Status.word, BitVec.getLsbD_append]; simp

/-! ## Operands of a running command -/

/-- The step from `s` to `t` changes no operand register (20_memory.md R67). -/
structure KeepsOperands (s t : State) : Prop where
  n : t.n = s.n
  index : t.index = s.index
  key0 : t.key0 = s.key0
  key1 : t.key1 = s.key1
  key2 : t.key2 = s.key2
  wlimit : t.wlimit = s.wlimit

theorem AcceptEffect.keepsOperands {w : Word} {s t : State} (h : AcceptEffect w s t) : KeepsOperands s t := by
  cases h <;> exact ⟨rfl, rfl, rfl, rfl, rfl, rfl⟩

/-- Only a write of the host to an operand register changes one, and that is not while busy. -/
theorem HostEffect.keepsOperands {tr : BusTransaction} {s t : State} (h : HostEffect tr s t)
    (hb : s.status.busy = true) : KeepsOperands s t := by
  cases h with
  | respond | cfg | drop => exact ⟨rfl, rfl, rfl, rfl, rfl, rfl⟩
  | accept t _ _ ha =>
    obtain ⟨hn, hi, h0, h1, h2, hl⟩ := ha.keepsOperands
    exact ⟨hn, hi, h0, h1, h2, hl⟩
  | n hidle | index hidle | key0 hidle | key1 hidle | key2 hidle | wlimit hidle => simp [hb] at hidle

theorem EngineEffect.keepsOperands {s t : State} (h : EngineEffect s t) : KeepsOperands s t := by
  cases h <;> exact ⟨rfl, rfl, rfl, rfl, rfl, rfl⟩

theorem StepEffect.keepsOperands {e : Event} {s t : State} (h : StepEffect s e t) (hb : s.status.busy = true)
    (hreset : e ≠ .reset) : KeepsOperands s t := by
  cases h with
  | host tr t ht => exact ht.keepsOperands hb
  | engine b t ht => exact ht.keepsOperands
  | hash | hashStay => exact ⟨rfl, rfl, rfl, rfl, rfl, rfl⟩
  | reset => exact absurd rfl hreset

theorem step_keepsOperands {s t : State} (hb : s.status.busy = true) (hreset : s.nextEvent ≠ .reset)
    (h : step s = .next t) : KeepsOperands s t := by
  have heff := step_effect h
  rw [advance_eq] at heff
  obtain ⟨hn, hi, h0, h1, h2, hl⟩ := heff.keepsOperands hb hreset
  exact ⟨hn, hi, h0, h1, h2, hl⟩

/-! ## The obligations -/

/-- Settles O17: by the register at the offset, or by there being none. -/
theorem readsAnswerTheRegister : Obligations.ReadsAnswerTheRegister := by
  refine ⟨fun off d s => ?_, statusWord_fields⟩
  rw [perform_read]
  rcases hreg : regAt off with _ | r
  · rw [busRead_eq_busError hreg]
    simp (disch := decide) only [ite_offset_eq_of_regAt_eq_none hreg]
    rfl
  · obtain rfl := regAt_eq_some hreg
    rw [busRead_offset]
    cases r with
    | cfg =>
      rw [readReg_cfg]
      rfl
    | hbits =>
      rw [readReg_hbits]
      rfl
    | _ => rfl

/-- Settles O18: there is no register at such an offset, and a read-only register ignores every write. -/
theorem writesWithoutEffect : Obligations.WritesWithoutEffect := by
  refine ⟨fun t s h => perform_eq_busError t s (regAt_eq_none_of_unmapped h), fun off v s h => ?_⟩
  obtain ⟨r, hr, rfl⟩ : ∃ r : Reg, r.readOnly = true ∧ off = r.offset := by
    rcases h with h | h | h | h | h | h | h
    exacts [⟨.id, rfl, h⟩, ⟨.status, rfl, h⟩, ⟨.result, rfl, h⟩, ⟨.lmask, rfl, h⟩, ⟨.rmask, rfl, h⟩, ⟨.hbits, rfl, h⟩,
      ⟨.wcount, rfl, h⟩]
  exact (perform_write_offset r v s).trans (writeReg_readOnly hr v _)

/-- Settles O19: a write by its register; the operands by what each agent's step can do while busy. -/
theorem busyWritesAreDropped : Obligations.BusyWritesAreDropped := by
  refine ⟨fun off v s hb h => ?_, fun v s _ => perform_write_offset .cfg v s, fun s t hb hreset hstep => ?_⟩
  · obtain ⟨r, hr, rfl⟩ : ∃ r : Reg, r.droppedWhileBusy = true ∧ off = r.offset := by
      rcases h with h | h | h | h | h | h | h
      exacts [⟨.n, rfl, h⟩, ⟨.index, rfl, h⟩, ⟨.key0, rfl, h⟩, ⟨.key1, rfl, h⟩, ⟨.key2, rfl, h⟩, ⟨.wlimit, rfl, h⟩,
        ⟨.cmd, rfl, h⟩]
    exact (perform_write_offset r v s).trans (writeReg_busy hr v hb)
  · obtain ⟨hn, hi, h0, h1, h2, hl⟩ := step_keepsOperands hb hreset hstep
    exact ⟨hn, hi, h0, h1, h2, hl⟩

/-- Settles O20: while not busy each operand register takes the write that the register map gives it. -/
theorem idleWritesOfOperands : Obligations.IdleWritesOfOperands := by
  intro v s hidle
  exact ⟨perform_write_idle .n hidle rfl, perform_write_idle .key0 hidle rfl, perform_write_idle .key1 hidle rfl,
    perform_write_idle .key2 hidle rfl, perform_write_idle .index hidle rfl, perform_write_idle .wlimit hidle rfl⟩

/-- Settles O21: the write sets `IE` whatever `BUSY` is, and `irq` and the word of `CFG` are functions of `IE`. -/
theorem cfgWriteSetsInterruptEnable : Obligations.CfgWriteSetsInterruptEnable := fun v s =>
  ⟨_, perform_write_offset .cfg v s, rfl, rfl, (readReg_cfg _).trans (and_one_eq_ite v).symm⟩

end Sys2Proof.Machine
end

section
/-! PROOF. The fields of a command's word decode to the command (30_encoding.md R90 to R92), and the words that the decoder and
the legality test reject are those of R94; then O4 and O3. -/

namespace Sys2Proof

/-! ## The decoder on the words of commands -/

/-- The fields that `encode` writes into a command's word (30_encoding.md R90, R92). -/
theorem encode_fields (i : Instr) :
    rsvField (encode i) = 0 ∧ opField (encode i) = i.opcode ∧ kselField (encode i) = i.kselBits := by
  cases i with
  | nop => exact Laws.EncodeFields.nop
  | precompute => exact Laws.EncodeFields.precompute
  | encode => exact Laws.EncodeFields.encode
  | decode => exact Laws.EncodeFields.decode
  | permute => exact Laws.EncodeFields.permute
  | invert => exact Laws.EncodeFields.invert
  | roundf ksel => exact Laws.EncodeFields.roundf ksel
  | clear => exact Laws.EncodeFields.clear

/-- 30_encoding.md R95: the word of ROUNDF for each of the four values of its key select. -/
theorem encode_roundf : ∀ k : BitVec 2, encode (.roundf k) = 0x6#64 ||| (k.setWidth 64 <<< 4) := by
  decide

/-- The opcode map (30_encoding.md R92): the fields of a well-formed command decode to it. -/
theorem decodeFields_opcode_kselBits {i : Instr} (wf : i.wellFormed = true) :
    decodeFields i.opcode i.kselBits = .command i := by
  cases i with
  | roundf ksel => exact if_pos (of_decide_eq_true wf)
  | _ => rfl

theorem decode_encode {i : Instr} (wf : i.wellFormed = true) : decode (encode i) = .command i := by
  obtain ⟨hrsv, hop, hksel⟩ := encode_fields i
  rw [decode, if_pos hrsv, hop, hksel, decodeFields_opcode_kselBits wf]

/-- The word that encodes a well-formed command also decodes to it. -/
theorem encode_eq_and_decode_eq {i : Instr} {w : Word} (wf : i.wellFormed = true) (h : encode i = w) :
    encode i = w ∧ decode w = .command i :=
  ⟨h, h ▸ decode_encode wf⟩

/-! ## The illegal words -/

theorem withoutKsel_illegal_iff (ksel : BitVec 2) (i : Instr) :
    (∃ why, withoutKsel ksel i = .illegal why) ↔ ksel.toNat ≠ 0 := by
  have h0 : ksel = 0 ↔ ksel.toNat = 0 := BitVec.toNat_inj.symm
  unfold withoutKsel
  split <;> simp_all

theorem withKsel_illegal_iff (ksel : BitVec 2) : (∃ why, withKsel ksel = .illegal why) ↔ ksel.toNat = 3 := by
  unfold withKsel
  split
  · simp only [reduceCtorEq, exists_false, false_iff]
    omega
  · simp only [Decoded.illegal.injEq, exists_eq', true_iff]
    omega

/-- The fields that 30_encoding.md R94 makes illegal whatever the reserved bits are: a reserved opcode, a key select without
ROUNDF, and ROUNDF with `KSEL = 3`. -/
def IllegalFields (op : BitVec 4) (ksel : BitVec 2) : Prop :=
  8 ≤ op.toNat ∨ (op.toNat ≠ 6 ∧ ksel.toNat ≠ 0) ∨ (op.toNat = 6 ∧ ksel.toNat = 3)

theorem decodeFields_illegal_iff (op : BitVec 4) (ksel : BitVec 2) :
    (∃ why, decodeFields op ksel = .illegal why) ↔ IllegalFields op ksel := by
  unfold decodeFields IllegalFields
  split
  case h_7 h => simp [h, withKsel_illegal_iff]
  case h_9 =>
    simp only [imp_false] at *
    simp [show 8 ≤ op.toNat by omega]
  all_goals rename_i h; simp [h, withoutKsel_illegal_iff]

theorem decode_illegal_iff (w : Word) :
    (∃ why, decode w = .illegal why) ↔ rsvField w ≠ 0 ∨ IllegalFields (opField w) (kselField w) := by
  unfold decode
  split
  case isTrue h => simp [h, decodeFields_illegal_iff]
  case isFalse h => exact ⟨fun _ => .inl h, fun _ => ⟨_, rfl⟩⟩

/-- 30_encoding.md R93 and R94: a word is not legal exactly when one of the conditions of R94 holds. -/
theorem legal_eq_false_iff (w : Word) :
    legal w = false ↔ rsvField w ≠ 0 ∨ IllegalFields (opField w) (kselField w) := by
  have hksel : kselField w = 0 ↔ (kselField w).toNat = 0 := BitVec.toNat_inj.symm
  simp only [legal, IllegalFields, hksel, Bool.and_eq_false_iff, Bool.or_eq_false_iff, decide_eq_false_iff_not]
  refine or_assoc.trans (or_congr Iff.rfl ?_)
  omega

theorem decode_illegal_of_legal_eq_false {w : Word} (h : legal w = false) : ∃ why, decode w = .illegal why :=
  (decode_illegal_iff w).mpr ((legal_eq_false_iff w).mp h)

namespace Machine

/-- 44_control.md R230: the accept of an illegal word, whichever condition it fails. -/
theorem acceptWord_of_legal_eq_false {w : Word} (h : legal w = false) (s : State) :
    acceptWord w s = .next (acceptIllegal s) := by
  obtain ⟨why, hwhy⟩ := decode_illegal_of_legal_eq_false h
  simp only [acceptWord, hwhy]

theorem acceptIllegal_idle {s : State} (hb : s.status.busy = false) (he : s.status.err = false) :
    acceptIllegal s = s.raise .illegalCmd :=
  acceptUnlessErr_idle _ s hb he

theorem acceptIllegal_dropped {s : State} (h : s.status.busy = true ∨ s.status.err = true) :
    acceptIllegal s = s.reject :=
  h.elim (acceptUnlessErr_busy _ s) (acceptUnlessErr_err _ s)

/-! ## The obligations -/

/-- Settles O4: the decoder rejects exactly the words that fail the legality test, and the accept of a rejected word is the error
entry or the drop. -/
theorem illegalWordsAreErrors : Obligations.IllegalWordsAreErrors := by
  refine fun w s => ⟨(legal_eq_false_iff w).trans or_left_comm, fun h => ?_⟩
  rw [acceptWord_of_legal_eq_false h]
  exact ⟨fun hb he => congrArg _ (acceptIllegal_idle hb he), fun hd => congrArg _ (acceptIllegal_dropped hd)⟩

end Machine

/-- Settles O3: each word is the concatenation of its command's fields, and decoding it is `decode_encode`. -/
theorem commandWordsDecode : Obligations.CommandWordsDecode :=
  ⟨encode_eq_and_decode_eq rfl rfl, encode_eq_and_decode_eq rfl rfl, encode_eq_and_decode_eq rfl rfl,
    encode_eq_and_decode_eq rfl rfl, encode_eq_and_decode_eq rfl rfl, encode_eq_and_decode_eq rfl rfl,
    fun k hk => encode_eq_and_decode_eq (decide_eq_true hk) (encode_roundf k), encode_eq_and_decode_eq rfl rfl⟩

end Sys2Proof
end

section
/-! PROOF. The half width is the least one however long the loop of R122 runs, and the masks of a half width up to 32 are
disjoint and cover its `2h` low bits (40_precompute.md R121, R122, R124); then O23 and O22. -/

namespace Sys2Proof.Machine

/-! ## The half width -/

theorem isHalfBits_iff_isLeast {n : Word} {h : Nat} : IsHalfBits n h ↔ IsLeast { k | 0 < k ∧ n.toNat ≤ 4 ^ k } h :=
  ⟨fun ⟨hpos, hle, hmin⟩ => ⟨⟨hpos, hle⟩, fun k ⟨kpos, hk⟩ => hmin k kpos hk⟩,
    fun ⟨⟨hpos, hle⟩, hmin⟩ => ⟨hpos, hle, fun _ kpos hk => hmin ⟨kpos, hk⟩⟩⟩

theorem IsHalfBits.unique {n : Word} {h k : Nat} (hh : IsHalfBits n h) (hk : IsHalfBits n k) : h = k :=
  (isHalfBits_iff_isLeast.mp hh).unique (isHalfBits_iff_isLeast.mp hk)

/-- Every 64-bit value is at most `4^32` (40_precompute.md R124). -/
theorem toNat_le_four_pow_of_halfMax_le (n : Word) {k : Nat} (hk : Config.halfMax ≤ k) : n.toNat ≤ 4 ^ k :=
  calc n.toNat
    _ ≤ 4 ^ Config.halfMax := n.isLt.le
    _ ≤ 4 ^ k := Nat.pow_le_pow_right (by decide) hk

theorem IsHalfBits.le_halfMax {n : Word} {h : Nat} (hh : IsHalfBits n h) : h ≤ Config.halfMax := by
  obtain ⟨-, -, hmin⟩ := hh
  exact hmin _ (by decide) (toNat_le_four_pow_of_halfMax_le n le_rfl)

/-- From 31 turns on the loop has ended at the least half width, because `4^32` bounds every `n`. -/
theorem halfBitsLoop_isHalfBits (n : Word) {turns : Nat} (ht : Config.halfMax - 1 ≤ turns) :
    IsHalfBits n (halfBitsLoop n.toNat 4 1 turns) :=
  isHalfBits_iff_isLeast.mpr <|
    halfBitsLoop_least n.toNat turns 1 Nat.one_pos (fun _ kpos _ => kpos)
      (toNat_le_four_pow_of_halfMax_le n (by omega))

theorem halfBits_isHalfBits (n : Word) : IsHalfBits n (halfBits n) := halfBitsLoop_isHalfBits n le_rfl

/-! ## The masks -/

theorem leftMask_and_rightMask {h : Nat} (hh : h ≤ 32) : leftMask h &&& rightMask h = 0 := by
  apply BitVec.eq_of_getLsbD_eq
  intro i _
  by_cases hi : i < h <;> simp [leftMask, rightMask_getLsbD hh, hi]

/-- The left mask is the right one moved up, and none of its bits is lost. -/
theorem leftMask_toNat {h : Nat} (hh : h ≤ 32) : (leftMask h).toNat = (2 ^ h - 1) <<< h := by
  have hpow : 2 ^ h ≤ 2 ^ 32 := pow_two_le_of_le hh
  have hfits : (2 ^ h - 1) * 2 ^ h < 2 ^ 64 :=
    calc (2 ^ h - 1) * 2 ^ h
      _ ≤ (2 ^ 32 - 1) * 2 ^ 32 := Nat.mul_le_mul (Nat.sub_le_sub_right hpow 1) hpow
      _ < 2 ^ 64 := by norm_num
  rw [leftMask, BitVec.toNat_shiftLeft, rightMask_toNat hh, Nat.mod_eq_of_lt (by rwa [Nat.shiftLeft_eq])]

theorem leftMask_or_rightMask_toNat {h : Nat} (hh : h ≤ 32) :
    (leftMask h ||| rightMask h).toNat = 2 ^ (2 * h) - 1 := by
  have hpos : 0 < 2 ^ h := by positivity
  calc (leftMask h ||| rightMask h).toNat
    _ = (2 ^ h - 1) <<< h ||| (2 ^ h - 1) := by rw [BitVec.toNat_or, leftMask_toNat hh, rightMask_toNat hh]
    _ = (2 ^ h - 1) <<< h + (2 ^ h - 1) := (Nat.shiftLeft_add_eq_or_of_lt (Nat.sub_one_lt hpos.ne') _).symm
    _ = 2 ^ h * 2 ^ h - 1 := by
      have hle : 2 ^ h ≤ 2 ^ h * 2 ^ h := Nat.le_mul_of_pos_left _ hpos
      rw [Nat.shiftLeft_eq, Nat.sub_one_mul]
      omega
    _ = 2 ^ (2 * h) - 1 := by rw [two_mul, pow_add]

/-! ## The engine's turn in phase `PRE` -/

theorem perform_engine_pre (hreqReady : Bool) {s : State} (hph : s.ph = .pre) :
    perform (.engine hreqReady) s = .next (precomputeStep s) := by
  simp only [perform, engineStep, hph]

/-! ## The obligations -/

/-- Settles O23: the loop's value after any number of turns from 31 on is the least half width, and there is only one. -/
theorem halfBitsIsLeast : Obligations.HalfBitsIsLeast :=
  ⟨fun n _ => halfBits_isHalfBits n, fun n _ _ extra =>
    (halfBitsLoop_isHalfBits n (Nat.le_add_right 31 extra)).unique (halfBits_isHalfBits n)⟩

/-- Settles O22: the engine's turn in phase `PRE` is `precomputeStep`, and its triple is that of the least half width. -/
theorem precomputeStepWritesTriple : Obligations.PrecomputeStepWritesTriple := by
  intro s hreqReady hph
  have hleast : IsHalfBits s.n (halfBits s.n) := halfBits_isHalfBits s.n
  have hmax : halfBits s.n ≤ 32 := hleast.le_halfMax
  exact ⟨halfBits s.n, hleast, hleast.left, hmax, leftMask_and_rightMask hmax, leftMask_or_rightMask_toNat hmax,
    perform_engine_pre hreqReady hph⟩

end Sys2Proof.Machine
end

section
/-! PROOF. What a write to the message buffer leaves in each byte, and that a second write hides the first
(41_round_function.md R151); then O25. -/

namespace Sys2Proof.Machine

/-! ## The message buffer -/

theorem msgWrite_getElem (buf : Msg) (v : Word) (i : Fin 16) :
    (msgWrite buf v)[i] = if i.val < 8 then be8 v i.val else buf[i] :=
  Vector.getElem_ofFn i.isLt

theorem msgWrite_getElem_of_lt (buf : Msg) (v : Word) {i : Fin 16} (hi : i.val < 8) :
    (msgWrite buf v)[i] = be8 v i.val :=
  (msgWrite_getElem buf v i).trans (if_pos hi)

theorem msgWrite_getElem_of_not_lt (buf : Msg) (v : Word) {i : Fin 16} (hi : ¬i.val < 8) :
    (msgWrite buf v)[i] = buf[i] :=
  (msgWrite_getElem buf v i).trans (if_neg hi)

/-- Both writes go to the same eight bytes, so the first leaves no trace. -/
theorem msgWrite_msgWrite (buf : Msg) (v key : Word) : msgWrite (msgWrite buf v) key = msgWrite buf key := by
  apply Vector.ext
  intro i hi
  change (msgWrite (msgWrite buf v) key)[(⟨i, hi⟩ : Fin 16)] = (msgWrite buf key)[(⟨i, hi⟩ : Fin 16)]
  by_cases hlow : i < 8
  · rw [msgWrite_getElem_of_lt _ _ hlow, msgWrite_getElem_of_lt _ _ hlow]
  · rw [msgWrite_getElem_of_not_lt _ _ hlow, msgWrite_getElem_of_not_lt _ _ hlow, msgWrite_getElem_of_not_lt _ _ hlow]

/-- The message is the key written over an empty buffer, whatever the value. -/
theorem msg_eq_msgWrite_key (v key : Word) : msg v key = msgWrite (Vector.replicate 16 0) key :=
  msgWrite_msgWrite _ v key

theorem msgWrite_zeros_getElem (v : Word) (i : Fin 16) :
    (msgWrite (Vector.replicate 16 0) v)[i] = if i.val < 8 then v.extractLsb' (56 - 8 * i.val) 8 else 0 := by
  have hzero : (Vector.replicate 16 0 : Msg)[i] = 0 := Vector.getElem_replicate i.isLt
  rw [msgWrite_getElem, hzero, be8]

/-! ## The obligation -/

/-- Settles O25: the message and the buffer after the first write are each one write over zeros. -/
theorem messageIsKeyThenZeros : Obligations.MessageIsKeyThenZeros := by
  intro v key i
  rw [msg_eq_msgWrite_key]
  exact ⟨msgWrite_zeros_getElem key i, msgWrite_zeros_getElem v i⟩

end Sys2Proof.Machine
end

section
/-! PROOF. The engine's turns of a forward application: the split in phase `SETUP` and the completion of a round in phase `HWAIT`,
each said once for the opcodes that run forward (42_feistel_apply.md R171, R172); then O30 and O32. -/

namespace Sys2Proof.Machine

/-! ## The opcodes that run forward -/

theorem Opcode.forward_iff (op : Opcode) : op.forward = true ↔ op = .encode ∨ op = .permute := by
  cases op <;> decide

/-! ## The engine's turn in phases `SETUP` and `HWAIT` -/

theorem perform_engine_setup (hreqReady : Bool) {s : State} (hph : s.ph = .setup) :
    perform (.engine hreqReady) s = .next (setupStep s) := by
  simp only [perform, engineStep, hph]

theorem perform_engine_response (hreqReady : Bool) {s : State} {d : Digest} (hph : s.ph = .hwait)
    (hhp : s.hp = .ready d) : perform (.engine hreqReady) s = .next (completeRound (reduce d) s) := by
  simp only [perform, engineStep, hph, responseStep, hhp]

/-- The split with its first key by the names of the opcodes, as 42_feistel_apply.md R171 gives it. -/
theorem setupStep_eq (s : State) :
    setupStep s =
      { s with
        wl := s.network.leftHalf s.u
        wr := s.network.rightHalf s.u
        rnd := if s.op = .encode ∨ s.op = .permute then 0 else 2
        ph := .hreq } := by
  simp only [setupStep, s.op.forward_iff]

/-! ## A forward round -/

/-- The round value of a forward round: the answer to the round's request, masked, is `F` of the right half and the round's key
(41_round_function.md R153, R160). -/
theorem reduce_request_of_forward {s : State} (hf : s.op.forward = true) :
    reduce (digestOf s.request) &&& s.rmask = roundF (s.wr.setWidth 64) (s.key s.rnd) s.rmask := by
  rw [State.request, State.hashOperand, if_pos hf, roundF]

theorem completeRound_of_forward (r : Word) {s : State} (hf : s.op.forward = true) :
    completeRound r s = forwardRound (r &&& s.rmask) s := by
  rcases completeRound_cases r s with ⟨hop, _⟩ | ⟨_, _, h⟩ | ⟨_, hback, _⟩
  · simp [hop, Opcode.forward] at hf
  · exact h
  · simp [hf] at hback

theorem forwardRound_of_rnd_ne_two (f : Word) {s : State} (hr : s.rnd ≠ 2) :
    forwardRound f s =
      { s with wl := s.wr, wr := s.wl ^^^ f.setWidth 32, hp := .empty, rnd := s.rnd + 1, ph := .hreq } := by
  rcases forwardRound_cases f s with ⟨h2, _⟩ | ⟨_, h⟩
  · exact absurd h2 hr
  · exact h

theorem forwardRound_of_rnd_eq_two (f : Word) {s : State} (hr : s.rnd = 2) :
    forwardRound f s = recombine { s with wl := s.wr, wr := s.wl ^^^ f.setWidth 32, hp := .empty } := by
  rcases forwardRound_cases f s with ⟨_, h⟩ | ⟨h2, _⟩
  · exact h
  · exact absurd hr h2

/-- The engine's turn that completes a round of a command that runs forward. -/
theorem perform_engine_forwardRound (hreqReady : Bool) {s : State} {d : Digest} (hph : s.ph = .hwait)
    (hhp : s.hp = .ready d) (hf : s.op.forward = true) :
    perform (.engine hreqReady) s = .next (forwardRound (reduce d &&& s.rmask) s) := by
  rw [perform_engine_response hreqReady hph hhp, completeRound_of_forward _ hf]

/-! ## The obligations -/

/-- Settles O30: the engine's turn in phase `SETUP` is `setupStep`, whose halves are those of the registers' network. -/
theorem setupStepSplits : Obligations.SetupStepSplits := by
  intro s hreqReady hph
  rw [perform_engine_setup hreqReady hph, setupStep_eq]
  rfl

/-- Settles O32: the engine's turn is a forward round with the masked digest, and the round with key 2 ends in `recombine`. -/
theorem forwardRoundCompletes : Obligations.ForwardRoundCompletes := by
  rintro s d hreqReady hph hhp hop f rfl
  have hf : s.op.forward = true := s.op.forward_iff.mpr hop
  rw [perform_engine_forwardRound hreqReady hph hhp hf]
  refine ⟨?_, fun hr => ?_, fun hr => ?_⟩
  · rintro rfl
    rw [reduce_request_of_forward hf]
  · rw [forwardRound_of_rnd_ne_two _ hr]
  · rw [forwardRound_of_rnd_eq_two _ hr]
    rfl

end Sys2Proof.Machine
end

section
/-! PROOF. The engine's turn in phase `CHECK`: each outcome of `checkStep` falls under one arm of the decision of
43_cycle_walk.md R203; then O35. -/

namespace Sys2Proof.Machine

/-! ## The conditions of R203 -/

theorem Opcode.single_iff (op : Opcode) : op.single = true ↔ op = .encode ∨ op = .decode := by
  cases op <;> decide

/-- When an application ends its command: the opcode does not fold, or the value landed below `N` as an unsigned number. -/
theorem endsAtCheck_iff (s : State) :
    (s.op = .encode ∨ s.op = .decode ∨ s.u.toNat < s.n.toNat) ↔ s.op.single = true ∨ s.u < s.n := by
  rw [s.op.single_iff, or_assoc, BitVec.lt_def]

theorem not_endsAtCheck {s : State} (hop : s.op.single = false) (hmiss : s.n ≤ s.u) :
    ¬(s.op = .encode ∨ s.op = .decode ∨ s.u.toNat < s.n.toNat) := by
  rw [endsAtCheck_iff, not_or, BitVec.not_lt]
  exact ⟨ne_true_of_eq_false hop, hmiss⟩

/-- A walk goes on when it has no cap or has not used it up. -/
theorem not_capReached {s : State} (hroom : s.wlimit = 0 ∨ s.wc < s.wlimit) :
    ¬(s.wlimit ≠ 0 ∧ s.wlimit.toNat ≤ s.wc.toNat) := by
  rintro ⟨hcap, hused⟩
  exact hroom.elim hcap (BitVec.not_lt.mpr (BitVec.le_def.mpr hused))

/-! ## The engine's turn in phase `CHECK` -/

theorem perform_engine_check (hreqReady : Bool) {s : State} (hph : s.ph = .check) :
    perform (.engine hreqReady) s = .next (checkStep s) := by
  simp only [perform, engineStep, hph]

/-! ## The obligation -/

/-- Settles O35: the engine's turn in phase `CHECK` is `checkStep`, and each of its outcomes is the arm whose condition holds. -/
theorem checkStepDecides : Obligations.CheckStepDecides := by
  intro s hreqReady hph
  rw [perform_engine_check hreqReady hph]
  rcases checkStep_cases s with ⟨hend, e⟩ | ⟨hop, hmiss, hcap, hused, e⟩ | ⟨hop, hmiss, hroom, e⟩
  · rw [e, if_pos ((endsAtCheck_iff s).mpr hend)]
    rfl
  · rw [e, if_neg (not_endsAtCheck hop hmiss), if_pos ⟨hcap, BitVec.le_def.mp hused⟩]
    rfl
  · rw [e, if_neg (not_endsAtCheck hop hmiss), if_neg (not_capReached hroom)]

end Sys2Proof.Machine
end

section
/-! PROOF. A command word is determined by the command it decodes to (30_encoding.md R90 to R92), and the word of `STATUS` fixes
its fields (10_state.md R26); what each command word and each bus transaction can do while busy or while `ERR = 1`
(44_control.md R230 to R232, R235, R237, R239); then O8, O9, O15 and O56. -/

namespace Sys2Proof

/-! ## The word of a decoded command -/

/-- 30_encoding.md R90: a command word is its three fields. -/
theorem fields_append (w : Word) : rsvField w ++ kselField w ++ opField w = w := by
  rw [rsvField, kselField, opField, BitVec.extractLsb'_append_extractLsb'_eq_extractLsb' (by rfl),
    BitVec.extractLsb'_append_extractLsb'_eq_extractLsb' (by rfl)]
  exact BitVec.extractLsb'_eq_self

theorem withoutKsel_eq_command {ksel : BitVec 2} {i j : Instr} (h : withoutKsel ksel j = .command i) :
    ksel = 0 ∧ j = i := by
  unfold withoutKsel at h
  split at h
  case isTrue h0 => exact ⟨h0, Decoded.command.inj h⟩
  case isFalse => cases h

theorem withKsel_eq_command {ksel : BitVec 2} {i : Instr} (h : withKsel ksel = .command i) : .roundf ksel = i := by
  unfold withKsel at h
  split at h
  case isTrue => exact Decoded.command.inj h
  case isFalse => cases h

/-- 30_encoding.md R92: the fields that decode to a command are the ones its word is built from. -/
theorem fields_of_decodeFields {op : BitVec 4} {ksel : BitVec 2} {i : Instr} (h : decodeFields op ksel = .command i) :
    i.opcode = op ∧ i.kselBits = ksel := by
  unfold decodeFields at h
  split at h
  case h_7 hop =>
    obtain rfl := withKsel_eq_command h
    exact ⟨BitVec.eq_of_toNat_eq hop.symm, rfl⟩
  case h_9 => cases h
  all_goals
    rename_i hop
    obtain ⟨rfl, rfl⟩ := withoutKsel_eq_command h
    exact ⟨BitVec.eq_of_toNat_eq hop.symm, rfl⟩

/-- 30_encoding.md R94: no word with a reserved bit is a command. -/
theorem rsvField_eq_zero_of_decode {w : Word} {i : Instr} (h : decode w = .command i) : rsvField w = 0 := by
  by_contra hrsv
  obtain ⟨why, hwhy⟩ := (decode_illegal_iff w).mpr (.inl hrsv)
  cases h.symm.trans hwhy

theorem encode_of_decode {w : Word} {i : Instr} (h : decode w = .command i) : encode i = w := by
  have hrsv := rsvField_eq_zero_of_decode h
  rw [decode, if_pos hrsv] at h
  obtain ⟨hop, hksel⟩ := fields_of_decodeFields h
  calc encode i
    _ = rsvField w ++ kselField w ++ opField w := by rw [encode, hop, hksel, hrsv]; rfl
    _ = w := fields_append w

namespace Machine

/-! ## The accept of NOP, of CLEAR and of every other word -/

theorem exec_nop_idle {s : State} (hb : s.status.busy = false) : exec .nop s = .next s :=
  congrArg _ (acceptAlways_idle id s hb)

theorem exec_clear_idle {s : State} (hb : s.status.busy = false) : exec .clear s = .next s.clear :=
  congrArg _ (acceptAlways_idle State.clear s hb)

/-- The accept of a well-formed command's own word runs the command. -/
theorem acceptWord_encode {i : Instr} (wf : i.wellFormed = true) (s : State) : acceptWord (encode i) s = exec i s := by
  simp only [acceptWord, decode_encode wf]

/-- 44_control.md R232: every word but those of NOP and CLEAR, legal or not, is acted on only while `ERR = 0`. -/
theorem acceptWord_eq_acceptUnlessErr {w : Word} (hnop : w ≠ encode .nop) (hclear : w ≠ encode .clear) (s : State) :
    ∃ act, acceptWord w s = .next (acceptUnlessErr act s) := by
  unfold acceptWord
  split
  next i hi =>
    have hw : encode i = w := encode_of_decode hi
    cases i with
    | nop => exact absurd hw.symm hnop
    | clear => exact absurd hw.symm hclear
    | roundf ksel =>
      simp only [exec, execRoundf]
      split <;> exact ⟨_, rfl⟩
    | _ => exact ⟨_, rfl⟩
  next => exact ⟨_, rfl⟩

theorem acceptWord_err {w : Word} {s : State} (hnop : w ≠ encode .nop) (hclear : w ≠ encode .clear)
    (he : s.status.err = true) : acceptWord w s = .next s.reject := by
  obtain ⟨act, h⟩ := acceptWord_eq_acceptUnlessErr hnop hclear s
  rw [h, acceptUnlessErr_err act s he]

/-! ## The word of `STATUS` -/

theorem Status.word_injective {f g : Status} (h : f.word = g.word) : f = g := by
  have hf := statusWord_fields f
  rw [h] at hf
  obtain ⟨hbusy, hdone, herr, hrej, hpre, h0, h1, h2, hcode, -⟩ := statusWord_fields g
  simp only [hbusy, hdone, herr, hrej, hpre, h0, h1, h2, hcode] at hf
  cases f
  cases g
  simp_all only

/-- The fields of `STATUS` in the example of 44_control.md R239, whose word is 0x05F4. -/
def Status.indexRangeExample : Status where
  busy := false
  done := false
  err := true
  rej := false
  preValid := true
  kv0 := true
  kv1 := true
  kv2 := true
  errCode := 5

theorem Status.indexRangeExample_word : Status.indexRangeExample.word = 0x05F4#64 := by decide

/-! ## Bus transactions while a command runs -/

theorem AcceptEffect.eq_reject_of_busy {w : Word} {s t : State} (h : AcceptEffect w s t) (hb : s.status.busy = true) :
    t = s.reject := by
  cases h with
  | drop => rfl
  | nop hidle | clear hidle | error _ hidle | precompute hidle | apply _ hidle | roundf _ hidle => simp [hb] at hidle

/-- While busy a bus transaction is answered and nothing else, sets `IE`, or is dropped (20_memory.md R62, R67, R71). -/
theorem HostEffect.busy_cases {tr : BusTransaction} {s t : State} (h : HostEffect tr s t) (hb : s.status.busy = true) :
    (∃ r, t = s.respond r) ∨ (∃ b, t = { s.respond writeOk with ie := b }) ∨ t = (s.respond writeOk).reject := by
  cases h with
  | respond r => exact .inl ⟨r, rfl⟩
  | cfg => exact .inr (.inl ⟨_, rfl⟩)
  | drop => exact .inr (.inr rfl)
  | accept t _ _ ha => exact .inr (.inr (ha.eq_reject_of_busy hb))
  | n hidle | index hidle | key0 hidle | key1 hidle | key2 hidle | wlimit hidle => simp [hb] at hidle

/-! ## The obligations -/

/-- Settles O8: NOP is accepted whatever `ERR` is, and a reserved bit makes a word no command. -/
theorem nopHasNoEffect : Obligations.NopHasNoEffect :=
  ⟨rfl, fun _ hidle => exec_nop_idle hidle, fun s hb => congrArg _ (acceptAlways_busy id s hb),
    fun _ _ hrsv _ hi => hrsv (rsvField_eq_zero_of_decode hi)⟩

/-- Settles O9: CLEAR is accepted whatever `ERR` is; in the example the word fixes the fields that CLEAR keeps. -/
theorem clearAcknowledges : Obligations.ClearAcknowledges := by
  refine ⟨rfl, fun _ hidle => exec_clear_idle hidle, fun s hb => congrArg _ (acceptAlways_busy State.clear s hb),
    fun s hword => ?_⟩
  have hs : s.status = Status.indexRangeExample := Status.word_injective (hword.trans Status.indexRangeExample_word.symm)
  refine ⟨s.clear, exec_clear_idle (by rw [hs]; rfl), ?_⟩
  change Status.word { s.status with done := false, err := false, errCode := 0, rej := false } = _
  rw [hs]
  decide

/-- Settles O15: while busy by the drop of every word, while `ERR = 1` by which of the two excepted words it is. -/
theorem droppedCommandWords : Obligations.DroppedCommandWords := by
  refine ⟨fun w s hb => acceptWord_busy w hb, fun w s hidle he => ?_⟩
  split_ifs with hnop hclear
  · subst hnop
    exact (acceptWord_encode (i := .nop) rfl s).trans (exec_nop_idle hidle)
  · subst hclear
    exact (acceptWord_encode (i := .clear) rfl s).trans (exec_clear_idle hidle)
  · exact acceptWord_err hnop hclear he

/-- Settles O56: by the three things that a bus transaction can do while busy. -/
theorem hostCannotStopCommand : Obligations.HostCannotStopCommand := by
  intro s t tr hb h
  have heff : HostEffect tr s t := hostStep_effect h
  rcases heff.busy_cases hb with ⟨r, rfl⟩ | ⟨b, rfl⟩ | rfl
  · exact ⟨rfl, id, rfl⟩
  · exact ⟨rfl, id, rfl⟩
  · exact ⟨rfl, fun _ => rfl, rfl⟩

end Machine

end Sys2Proof
end

section
/-! PROOF. What a step can do to the error state, said once per question and agent: when the ghost log grows, what can follow a
command's end or error, which step sets `REJ`, which step lowers `irq` (60_exceptions.md R250, R253, R254, R260); then O53, O54,
O55 and O59. -/

namespace Sys2Proof.Machine

/-! ## The registers a step starts from -/

theorem advance_status (s : State) : s.advance.status = s.status := by rw [advance_eq]

theorem advance_ph (s : State) : s.advance.ph = s.ph := by rw [advance_eq]

theorem advance_irq (s : State) : s.advance.irq = s.irq := by
  rw [advance_eq]
  rfl

theorem irq_iff (s : State) : s.irq = true ↔ s.ie = true ∧ (s.status.done = true ∨ s.status.err = true) := by
  simp [State.irq]

/-- A write of `CMD` is the presentation of its data as a command word. -/
theorem eq_cmdWrite {tr : BusTransaction} (hwe : tr.we = true) (hoff : tr.off = Reg.cmd.offset) : tr = cmdWrite tr.wdata := by
  rw [cmdWrite, ← hwe, ← hoff]

theorem fetchWord_of_nextEvent {s : State} {w : Word} (h : s.nextEvent = .host (cmdWrite w)) : s.fetchWord = some w := by
  rw [State.fetchWord, h]
  rfl

/-! ## After the end of a command and in an error no command runs -/

theorem StatusInv.not_busy {s : State} (hi : StatusInv s) (hend : s.status.done = true ∨ s.status.err = true) :
    s.status.busy = false := by
  by_contra hb
  obtain ⟨hdone, herr⟩ := hi.busy_quiet (Bool.eq_true_of_not_eq_false hb)
  simp [hdone, herr] at hend

theorem StatusInv.idle {s : State} (hi : StatusInv s) (hend : s.status.done = true ∨ s.status.err = true) :
    s.ph = .idle := by
  by_contra hph
  simpa [hi.not_busy hend] using hi.busy_iff_running.mpr hph

/-- 44_control.md R240: in phase `IDLE` no engine step is enabled. -/
theorem EngineEffect.eq_of_idle {s t : State} (h : EngineEffect s t) (hidle : s.ph = .idle) : t = s := by
  cases h with
  | stay => rfl
  | precompute hph | setup hph | request hph | roundf _ hph | forward _ hph | forwardLast _ hph | backward _ hph
  | backwardLast _ hph | land hph | cap hph | again hph => simp [hidle] at hph

/-! ## When the ghost log grows -/

/-- What a step does to the ghost log: it keeps it, or it raises an error and, beside that, changes only the model's own fields of
the step and, where a walk is capped, `WCOUNT` (60_exceptions.md R250, R252; 43_cycle_walk.md R203). -/
inductive LogEffect (s t : State) : Prop
  | keeps : t.raised = s.raised → LogEffect s t
  | raises (e : ErrorKind) (inputs : List Event) (turn : Nat) (resp : Option BusResponse) (wcount : Word) :
      t = State.raise e { s with inputs := inputs, turn := turn, resp := resp, wcount := wcount } → LogEffect s t

theorem AcceptEffect.logEffect {w : Word} {s t : State} (h : AcceptEffect w s t) : LogEffect s t := by
  cases h with
  | error e => exact .raises e _ _ _ _ rfl
  | _ => exact .keeps rfl

theorem HostEffect.logEffect {tr : BusTransaction} {s t : State} (h : HostEffect tr s t) : LogEffect s t := by
  cases h with
  | accept t _ _ ha =>
    cases ha.logEffect with
    | keeps hr => exact .keeps hr
    | raises e _ _ _ _ ht => exact .raises e _ _ _ _ ht
  | _ => exact .keeps rfl

theorem EngineEffect.logEffect {s t : State} (h : EngineEffect s t) : LogEffect s t := by
  cases h with
  | cap => exact .raises .walkLimit _ _ _ _ rfl
  | _ => exact .keeps rfl

theorem StepEffect.logEffect {s t : State} {e : Event} (h : StepEffect s e t) : LogEffect s t := by
  cases h with
  | host tr t ht => exact ht.logEffect
  | engine b t ht => exact ht.logEffect
  | hash | hashStay | reset => exact .keeps rfl

theorem step_logEffect {s t : State} (h : step s = .next t) : LogEffect s t := by
  have heff := (step_effect h).logEffect
  rw [advance_eq] at heff
  cases heff with
  | keeps hr => exact .keeps hr
  | raises e _ _ _ _ ht => exact .raises e _ _ _ _ ht

/-! ## Steps in an error -/

/-- The step from `s` to `t` raises no error, starts no command and leaves the error as it is. -/
structure KeepsError (s t : State) : Prop where
  raised : t.raised = s.raised
  busy : t.status.busy = s.status.busy
  err : t.status.err = s.status.err
  errCode : t.status.errCode = s.status.errCode

/-- 44_control.md R232: in an error the accept drops the word, or the word is NOP's, or it is CLEAR's. -/
theorem AcceptEffect.cases_of_err {w : Word} {s t : State} (h : AcceptEffect w s t) (herr : s.status.err = true) :
    t = s.reject ∨ t = s ∨ (w = encode .clear ∧ t = s.clear) := by
  cases h with
  | drop => exact .inl rfl
  | nop => exact .inr (.inl rfl)
  | clear _ hw => exact .inr (.inr ⟨(encode_of_decode hw).symm, rfl⟩)
  | error _ _ he | precompute _ he | apply _ _ he | roundf _ _ he => simp [herr] at he

theorem HostEffect.keepsError_or_clear {tr : BusTransaction} {s t : State} (h : HostEffect tr s t)
    (herr : s.status.err = true) :
    KeepsError s t ∨ (tr = cmdWrite (encode .clear) ∧ t = (s.respond writeOk).clear) := by
  cases h with
  | accept t hwe hoff ha =>
    rcases ha.cases_of_err herr with rfl | rfl | ⟨hw, rfl⟩
    · exact .inl ⟨rfl, rfl, rfl, rfl⟩
    · exact .inl ⟨rfl, rfl, rfl, rfl⟩
    · exact .inr ⟨hw ▸ eq_cmdWrite hwe hoff, rfl⟩
  | _ => exact .inl ⟨rfl, rfl, rfl, rfl⟩

/-- 60_exceptions.md R253: in an error, where no command runs, only CLEAR and reset touch the error. -/
theorem StepEffect.keepsError_or_clear {s t : State} {e : Event} (h : StepEffect s e t) (hidle : s.ph = .idle)
    (herr : s.status.err = true) (hreset : e ≠ .reset) :
    KeepsError s t ∨ (e = .host (cmdWrite (encode .clear)) ∧ t = (s.respond writeOk).clear) := by
  cases h with
  | host tr t ht =>
    rcases ht.keepsError_or_clear herr with hk | ⟨htr, hclear⟩
    · exact .inl hk
    · exact .inr ⟨congrArg _ htr, hclear⟩
  | engine b t ht =>
    obtain rfl := ht.eq_of_idle hidle
    exact .inl ⟨rfl, rfl, rfl, rfl⟩
  | hash | hashStay => exact .inl ⟨rfl, rfl, rfl, rfl⟩
  | reset => exact absurd rfl hreset

/-! ## Steps that set `REJ` -/

theorem EngineEffect.rej_eq {s t : State} (h : EngineEffect s t) : t.status.rej = s.status.rej := by
  cases h <;> rfl

section
variable {s t : State} (hbefore : s.status.rej = false) (hafter : t.status.rej = true)
include hbefore hafter

theorem rej_ne : t.status.rej ≠ s.status.rej := by
  simp [hbefore, hafter]

theorem AcceptEffect.eq_reject_of_rej {w : Word} (h : AcceptEffect w s t) : t = s.reject := by
  cases h with
  | drop => rfl
  | clear => cases hafter
  | _ => exact (rej_ne hbefore hafter rfl).elim

theorem HostEffect.eq_reject_of_rej {tr : BusTransaction} (h : HostEffect tr s t) : t = (s.respond writeOk).reject := by
  cases h with
  | drop => rfl
  | accept t _ _ ha => exact ha.eq_reject_of_rej hbefore hafter
  | _ => exact (rej_ne hbefore hafter rfl).elim

theorem StepEffect.eq_reject_of_rej {e : Event} (h : StepEffect s e t) : t = (s.respond writeOk).reject := by
  cases h with
  | host tr t ht => exact ht.eq_reject_of_rej hbefore hafter
  | engine b t ht => exact (rej_ne hbefore hafter ht.rej_eq).elim
  | hash | hashStay => exact (rej_ne hbefore hafter rfl).elim
  | reset => cases hafter

end

/-! ## Steps that lower `irq` -/

section
variable {s t : State} (hhigh : s.irq = true) (hlow : t.irq = false)
include hhigh hlow

theorem irq_ne : t.irq ≠ s.irq := by
  simp [hhigh, hlow]

/-- A command word lowers `irq` by the return from an error or by the start of a command; an error raised keeps it up. -/
theorem AcceptEffect.clear_or_busy_of_irq {w : Word} (h : AcceptEffect w s t) :
    w = encode .clear ∨ t.status.busy = true := by
  cases h with
  | drop | nop => exact (irq_ne hhigh hlow rfl).elim
  | clear _ hw => exact .inl (encode_of_decode hw).symm
  | error e =>
    obtain ⟨hie, _⟩ := (irq_iff s).mp hhigh
    have hstays : (s.raise e).irq = true := (irq_iff _).mpr ⟨hie, .inr rfl⟩
    exact (irq_ne hhigh hlow (hstays.trans hhigh.symm)).elim
  | precompute | apply | roundf => exact .inr rfl

/-- 60_exceptions.md R260: the transactions that lower `irq` write `CFG` with `IE = 0`, CLEAR's word, or a word that starts a
command. -/
theorem HostEffect.cases_of_irq {tr : BusTransaction} (h : HostEffect tr s t) :
    (∃ v, tr = { we := true, off := Reg.cfg.offset, wdata := v } ∧ v.getLsbD 0 = false) ∨
      tr = cmdWrite (encode .clear) ∨ ((∃ w, tr = cmdWrite w) ∧ t.status.busy = true) := by
  cases h with
  | cfg hwe hoff =>
    obtain ⟨_, hend⟩ := (irq_iff s).mp hhigh
    have hie : tr.wdata.getLsbD 0 = false := by
      by_contra hbit
      have hstays := (irq_iff { s.respond writeOk with ie := tr.wdata.getLsbD 0 }).mpr
        ⟨Bool.eq_true_of_not_eq_false hbit, hend⟩
      exact irq_ne hhigh hlow (hstays.trans hhigh.symm)
    exact .inl ⟨tr.wdata, by rw [← hwe, ← hoff], hie⟩
  | accept t hwe hoff ha =>
    have htr := eq_cmdWrite hwe hoff
    rcases AcceptEffect.clear_or_busy_of_irq (s := s.respond writeOk) hhigh hlow ha with hw | hbusy
    · exact .inr (.inl (hw ▸ htr))
    · exact .inr (.inr ⟨⟨_, htr⟩, hbusy⟩)
  | _ => exact (irq_ne hhigh hlow rfl).elim

/-- Where no command runs only reset and the host lower `irq`. -/
theorem StepEffect.reset_or_host_of_irq {e : Event} (h : StepEffect s e t) (hidle : s.ph = .idle) :
    e = .reset ∨ ∃ tr, e = .host tr ∧ HostEffect tr s t := by
  cases h with
  | host tr t ht => exact .inr ⟨tr, rfl, ht⟩
  | engine b t ht => exact (irq_ne hhigh hlow (congrArg State.irq (ht.eq_of_idle hidle))).elim
  | hash | hashStay => exact (irq_ne hhigh hlow rfl).elim
  | reset => exact .inl rfl

end

/-! ## The obligations -/

/-- Settles O53: a step that does not keep the ghost log ends in `raise`, whose writes are those of the rule. -/
theorem errorsAreRecorded : Obligations.ErrorsAreRecorded := by
  intro s t h
  cases step_logEffect h with
  | keeps hr => exact .inl hr
  | raises e _ _ _ _ ht =>
    subst ht
    exact .inr ⟨e, by and_intros <;> rfl⟩

/-- Settles O54: no command runs in an error, so that the step keeps the error or is the write of CLEAR's word. -/
theorem errorsDoNotNest : Obligations.ErrorsDoNotNest := by
  intro s t hi herr hreset h
  have hbusy : s.status.busy = false := hi.not_busy (.inr herr)
  have heff := (step_effect h).keepsError_or_clear ((advance_ph s).trans (hi.idle (.inr herr)))
    ((congrArg Status.err (advance_status s)).trans herr) hreset
  rw [advance_eq] at heff
  rcases heff with ⟨hraised, hb, he, hcode⟩ | ⟨hevent, rfl⟩
  · exact ⟨hraised, hb.trans hbusy, fun _ => hcode, fun hno => by simp [he, herr] at hno⟩
  · exact ⟨rfl, hbusy, nofun, fun _ => ⟨fetchWord_of_nextEvent hevent, rfl⟩⟩

/-- Settles O55: the only step that sets `REJ` is a drop. -/
theorem dropIsNoError : Obligations.DropIsNoError := by
  intro s t hbefore h hafter
  have hdrop : t = (s.advance.respond writeOk).reject :=
    (step_effect h).eq_reject_of_rej ((congrArg Status.rej (advance_status s)).trans hbefore) hafter
  rw [advance_eq] at hdrop
  subst hdrop
  exact ⟨rfl, rfl⟩

/-- Settles O59: while `irq` is 1 no command runs, which leaves the reset and the host's transactions. -/
theorem irqLevelAndClearing : Obligations.IrqLevelAndClearing := by
  refine ⟨irq_iff, fun s t hi h hhigh hlow => ?_⟩
  have hidle : s.advance.ph = .idle := (advance_ph s).trans (hi.idle ((irq_iff s).mp hhigh).2)
  have hhigh' : s.advance.irq = true := (advance_irq s).trans hhigh
  rcases (step_effect h).reset_or_host_of_irq hhigh' hlow hidle with hreset | ⟨tr, hevent, ht⟩
  · exact .inl hreset
  · rcases ht.cases_of_irq hhigh' hlow with ⟨v, rfl, hv⟩ | rfl | ⟨⟨w, rfl⟩, hbusy⟩
    · exact .inr (.inl ⟨v, hevent, hv⟩)
    · exact .inr (.inr (.inl (fetchWord_of_nextEvent hevent)))
    · exact .inr (.inr (.inr ⟨⟨w, fetchWord_of_nextEvent hevent⟩, hbusy⟩))

end Sys2Proof.Machine
end

section
/-! PROOF. What a step can do to `PRE_VALID` and the key-valid bits, said once per agent; then O57 (70_reset_and_hazards.md
R294). -/

namespace Sys2Proof.Machine

/-- No key-valid bit falls from `f` to `g`. -/
structure KeepsKeys (f g : Status) : Prop where
  kv0 : f.kv0 = true → g.kv0 = true
  kv1 : f.kv1 = true → g.kv1 = true
  kv2 : f.kv2 = true → g.kv2 = true

/-- Neither `PRE_VALID` nor a key-valid bit falls from `f` to `g`. -/
structure KeepsValidity (f g : Status) : Prop extends KeepsKeys f g where
  preValid : f.preValid = true → g.preValid = true

@[refl] theorem KeepsValidity.refl (f : Status) : KeepsValidity f f := ⟨⟨id, id, id⟩, id⟩

theorem KeepsKeys.not_lowered {f g : Status} (h : KeepsKeys f g) :
    ¬ ((f.kv0 = true ∧ g.kv0 = false) ∨ (f.kv1 = true ∧ g.kv1 = false) ∨ (f.kv2 = true ∧ g.kv2 = false)) := by
  rintro (⟨hbefore, hafter⟩ | ⟨hbefore, hafter⟩ | ⟨hbefore, hafter⟩)
  · simp [h.kv0 hbefore] at hafter
  · simp [h.kv1 hbefore] at hafter
  · simp [h.kv2 hbefore] at hafter

/-- The bus write of `v` to `N` (10_state.md R35). -/
def nWrite (v : Word) : BusTransaction := { we := true, off := Reg.n.offset, wdata := v }

theorem eq_nWrite {tr : BusTransaction} (hwe : tr.we = true) (hoff : tr.off = Reg.n.offset) : tr = nWrite tr.wdata := by
  rw [nWrite, ← hwe, ← hoff]

/-- What the step of an agent does to the validity bits: it keeps them, or it writes `N` and keeps the keys', or it is reset
(70_reset_and_hazards.md R294). -/
inductive ValidityEffect (f g : Status) : Event → Prop
  | keeps (e : Event) : KeepsValidity f g → ValidityEffect f g e
  | writesN (v : Word) : KeepsKeys f g → ValidityEffect f g (.host (nWrite v))
  | reset : ValidityEffect f g .reset

/-- The accept of a command word, legal or not, lowers no validity bit: neither a start nor an error nor CLEAR does. -/
theorem AcceptEffect.keepsValidity {w : Word} {s t : State} (h : AcceptEffect w s t) : KeepsValidity s.status t.status := by
  cases h with
  | nop => rfl
  | drop | clear | error | precompute | apply | roundf => exact ⟨⟨id, id, id⟩, id⟩

/-- Of all bus transactions only the write of `N` lowers a validity bit; a write of a key raises its own. -/
theorem HostEffect.validityEffect {tr : BusTransaction} {s t : State} (h : HostEffect tr s t) :
    ValidityEffect s.status t.status (.host tr) := by
  cases h with
  | respond | cfg | index | wlimit => exact .keeps _ (.refl _)
  | drop => exact .keeps _ ⟨⟨id, id, id⟩, id⟩
  | n _ hwe hoff =>
    rw [eq_nWrite hwe hoff]
    exact .writesN _ ⟨id, id, id⟩
  | key0 => exact .keeps _ ⟨⟨fun _ => rfl, id, id⟩, id⟩
  | key1 => exact .keeps _ ⟨⟨id, fun _ => rfl, id⟩, id⟩
  | key2 => exact .keeps _ ⟨⟨id, id, fun _ => rfl⟩, id⟩
  | accept t _ _ ha => exact .keeps _ ha.keepsValidity

/-- The engine lowers no validity bit, and the end of PRECOMPUTE raises `PRE_VALID`. -/
theorem EngineEffect.keepsValidity {s t : State} (h : EngineEffect s t) : KeepsValidity s.status t.status := by
  cases h with
  | precompute => exact ⟨⟨id, id, id⟩, fun _ => rfl⟩
  | stay | setup | request | forward | forwardLast | backward | backwardLast | again => rfl
  | roundf | land | cap => exact ⟨⟨id, id, id⟩, id⟩

theorem StepEffect.validityEffect {s t : State} {e : Event} (h : StepEffect s e t) : ValidityEffect s.status t.status e := by
  cases h with
  | host tr t ht => exact ht.validityEffect
  | engine b t ht => exact .keeps _ ht.keepsValidity
  | hash | hashStay => exact .keeps _ (.refl _)
  | reset => exact .reset

theorem step_validityEffect {s t : State} (h : step s = .next t) : ValidityEffect s.status t.status s.nextEvent :=
  advance_status s ▸ (step_effect h).validityEffect

section
variable {f g : Status} {e : Event} (h : ValidityEffect f g e)
include h

theorem ValidityEffect.reset_or_nWrite_of_preValid (hbefore : f.preValid = true) (hafter : g.preValid = false) :
    e = .reset ∨ ∃ v, e = .host (nWrite v) := by
  cases h with
  | keeps _ hk => simp [hk.preValid hbefore] at hafter
  | writesN v _ => exact .inr ⟨v, rfl⟩
  | reset => exact .inl rfl

theorem ValidityEffect.reset_or_keepsKeys : e = .reset ∨ KeepsKeys f g := by
  cases h with
  | keeps _ hk => exact .inr hk.toKeepsKeys
  | writesN _ hk => exact .inr hk
  | reset => exact .inl rfl

end

/-- Settles O57: each step has a `ValidityEffect`, and where it keeps the bits in question none of them falls. -/
theorem validityIsKept : Obligations.ValidityIsKept := by
  intro s t hstep
  have h := step_validityEffect hstep
  refine ⟨h.reset_or_nWrite_of_preValid, fun hlowered => ?_⟩
  rcases h.reset_or_keepsKeys with hreset | hkeys
  · exact hreset
  · exact absurd hlowered hkeys.not_lowered

end Sys2Proof.Machine
end

section
/-! PROOF. What decodes to a command is the word of a well-formed command, and the legality test accepts exactly these words
(30_encoding.md R90 to R95); then O2 and O1. -/

namespace Sys2Proof

/-! ## The commands that words decode to -/

/-- 30_encoding.md R91: the fields of a legal word stand for a well-formed command. -/
theorem wellFormed_of_decodeFields {op : BitVec 4} {ksel : BitVec 2} {i : Instr}
    (h : decodeFields op ksel = .command i) : i.wellFormed = true := by
  unfold decodeFields at h
  split at h
  case h_7 =>
    unfold withKsel at h
    split at h
    case isTrue hk =>
      cases h
      exact decide_eq_true hk
    case isFalse => cases h
  case h_9 => cases h
  all_goals
    obtain ⟨-, rfl⟩ := withoutKsel_eq_command h
    rfl

theorem wellFormed_of_decode {w : Word} {i : Instr} (h : decode w = .command i) : i.wellFormed = true := by
  rw [decode, if_pos (rsvField_eq_zero_of_decode h)] at h
  exact wellFormed_of_decodeFields h

/-! ## The legal words -/

/-- The decoder answers a command or a reason, and the reason exactly for the words that fail the legality test. -/
theorem legal_iff_decode (w : Word) : legal w = true ↔ ∃ i, decode w = .command i := by
  have hillegal : legal w = false ↔ ∃ why, decode w = .illegal why :=
    (legal_eq_false_iff w).trans (decode_illegal_iff w).symm
  rw [← Bool.not_eq_false, hillegal]
  cases decode w <;> simp

/-- 30_encoding.md R93, on the raw bit fields. -/
theorem legal_iff_fields (w : Word) :
    legal w = true ↔
      w.extractLsb' 6 58 = 0 ∧ (w.extractLsb' 0 4).toNat ≤ 0x7 ∧
        (((w.extractLsb' 0 4).toNat = 0x6 ∧ (w.extractLsb' 4 2).toNat ≤ 2) ∨
          ((w.extractLsb' 0 4).toNat ≠ 0x6 ∧ (w.extractLsb' 4 2).toNat = 0)) := by
  have hksel : kselField w = 0 ↔ (w.extractLsb' 4 2).toNat = 0 := BitVec.toNat_inj.symm
  simp only [legal, Bool.and_eq_true, Bool.or_eq_true, decide_eq_true_eq, hksel, and_assoc]
  exact Iff.rfl

/-- The ten words that 30_encoding.md infers from R93. -/
def legalWords : List Word :=
  [0x00#64, 0x01#64, 0x02#64, 0x03#64, 0x04#64, 0x05#64, 0x06#64, 0x16#64, 0x26#64, 0x07#64]

/-- The command words of R95 are the ten, ROUNDF's three among them. -/
theorem encode_mem_legalWords {i : Instr} (wf : i.wellFormed = true) : encode i ∈ legalWords := by
  cases i with
  | roundf ksel =>
    revert ksel
    decide
  | _ => decide

theorem legal_of_mem_legalWords : ∀ w ∈ legalWords, legal w = true :=
  List.all_eq_true.mp (by decide : legalWords.all legal = true)

theorem legal_iff_mem_legalWords (w : Word) : legal w = true ↔ w ∈ legalWords := by
  refine ⟨fun h => ?_, legal_of_mem_legalWords w⟩
  obtain ⟨i, hi⟩ := (legal_iff_decode w).mp h
  exact encode_of_decode hi ▸ encode_mem_legalWords (wellFormed_of_decode hi)

/-! ## The obligations -/

/-- Settles O2: one direction is the opcode map on the fields that `encode` writes, the other that a word is its fields. -/
theorem decodeEncodeAgree : Obligations.DecodeEncodeAgree :=
  ⟨fun _ wf => decode_encode wf, fun _ _ h => ⟨wellFormed_of_decode h, encode_of_decode h⟩⟩

/-- Settles O1: a word is legal exactly when it decodes to a command, and then it is that command's word. -/
theorem legalWordsAreTen : Obligations.LegalWordsAreTen := by
  refine fun w => ⟨legal_iff_fields w, ?_, legal_iff_decode w⟩
  simpa only [legalWords, List.mem_cons, List.not_mem_nil, or_false] using legal_iff_mem_legalWords w

end Sys2Proof
end

section
/-! PROOF. The round function is a function of the key alone; the byte lanes of the hash port; the bits of the reduction and of
its default table (41_round_function.md R154 to R161); then O26, O27, O28 and O29. -/

namespace Sys2Proof.Machine

open Config (SelEntry)

/-! ## The round function -/

/-- 41_round_function.md R161: the value leaves no trace in the message, so `F` is the masked digest of the key. -/
theorem roundF_eq_keyDigest (v key mask : Word) : roundF v key mask = keyDigest key &&& mask := by
  rw [roundF, keyDigest, msg_eq_msgWrite_key]

theorem msg_eq_msg (v v' key : Word) : msg v key = msg v' key :=
  (msg_eq_msgWrite_key v key).trans (msg_eq_msgWrite_key v' key).symm

/-! ## The wires of the hash port -/

/-- One more byte on the wires (41_round_function.md R155): the bytes before it move up a lane. -/
def pushByte (acc : BitVec 128) (b : Byte) : BitVec 128 := (acc <<< 8) ||| b.setWidth 128

theorem msgWires_eq_foldl (m : Msg) : msgWires m = m.toList.foldl pushByte 0 := rfl

theorem pushByte_lowest_lane (acc : BitVec 128) (b : Byte) : (pushByte acc b).extractLsb' 0 8 = b := by
  apply BitVec.eq_of_getLsbD_eq
  intro i hi
  have hi' : i < 128 := by omega
  simp [pushByte, hi, hi']

theorem pushByte_higher_lane (acc : BitVec 128) (b : Byte) {lane : Nat} (h : 8 * (lane + 1) + 8 ≤ 128) :
    (pushByte acc b).extractLsb' (8 * (lane + 1)) 8 = acc.extractLsb' (8 * lane) 8 := by
  apply BitVec.eq_of_getLsbD_eq
  intro i hi
  have hfits : 8 * (lane + 1) + i < 128 := by omega
  have habove : ¬ 8 * (lane + 1) + i < 8 := by omega
  have hsub : 8 * (lane + 1) + i - 8 = 8 * lane + i := by omega
  rw [BitVec.getLsbD_extractLsb', BitVec.getLsbD_extractLsb', pushByte, BitVec.getLsbD_or, BitVec.getLsbD_shiftLeft,
    BitVec.getLsbD_setWidth, hsub, BitVec.getLsbD_of_ge b _ (Nat.not_lt.mp habove)]
  simp only [hfits, habove, decide_true, decide_false, Bool.not_false, Bool.true_and, Bool.and_false, Bool.or_false]

/-- The bytes of a list of up to 16 bytes, first byte in the most significant lane. -/
theorem foldl_pushByte_lane (l : List Byte) : ∀ (i : Nat) (h : i < l.length), l.length ≤ 16 →
    (l.foldl pushByte 0).extractLsb' (8 * (l.length - 1 - i)) 8 = l[i] := by
  induction l using List.reverseRecOn with
  | nil => exact fun i h => absurd h (Nat.not_lt_zero i)
  | append_singleton l b ih =>
    intro i h hlen
    rw [List.length_append, List.length_singleton] at h hlen
    rw [List.foldl_append, List.foldl_cons, List.foldl_nil, List.length_append, List.length_singleton, Nat.add_sub_cancel]
    rcases Nat.lt_succ_iff_lt_or_eq.mp h with hi | rfl
    · have hlane : l.length - i = l.length - 1 - i + 1 := by omega
      rw [hlane, pushByte_higher_lane _ _ (by omega), ih i hi (by omega), List.getElem_append_left hi]
    · rw [Nat.sub_self, Nat.mul_zero, pushByte_lowest_lane, List.getElem_concat_length rfl]

theorem msgWires_lane (m : Msg) (i : Fin 16) : (msgWires m).extractLsb' (120 - 8 * i.val) 8 = m[i] := by
  have hlen : m.toList.length = 16 := Vector.length_toList
  have h := foldl_pushByte_lane m.toList i.val (by omega) (by omega)
  rw [show 8 * (m.toList.length - 1 - i.val) = 120 - 8 * i.val by omega] at h
  rw [msgWires_eq_foldl, h]
  rfl

theorem digestOfWires_length (x : BitVec (8 * digestBytes)) : (digestOfWires x).length = digestBytes := by
  rw [digestOfWires, List.length_map, List.length_range]

theorem digestOfWires_getElem (x : BitVec (8 * digestBytes)) (i : Nat) (h : i < (digestOfWires x).length) :
    (digestOfWires x)[i] = x.extractLsb' (8 * digestBytes - 8 - 8 * i) 8 := by
  simp only [digestOfWires, List.getElem_map, List.getElem_range]
  rw [show 8 * (digestBytes - 1 - i) = 8 * digestBytes - 8 - 8 * i by omega]

/-! ## The length of the digest -/

/-- The running maximum of `selSpan` bounds its start and every entry of the list. -/
theorem le_foldl_max {α : Type} (f : α → Nat) (l : List α) : ∀ m, m ≤ l.foldl (fun m a => max m (f a)) m ∧
    ∀ a ∈ l, f a ≤ l.foldl (fun m a => max m (f a)) m := by
  induction l with
  | nil => exact fun m => ⟨le_rfl, nofun⟩
  | cons b l ih =>
    intro m
    obtain ⟨hstart, hrest⟩ := ih (max m (f b))
    rw [List.foldl_cons]
    refine ⟨(le_max_left _ _).trans hstart, fun a ha => ?_⟩
    rcases List.mem_cons.mp ha with rfl | ha
    · exact (le_max_right _ _).trans hstart
    · exact hrest a ha

theorem pos_lt_selSpan (sel : Fin 8 → SelEntry) (j : Fin 8) : 1 + (sel j).pos ≤ selSpan sel :=
  (le_foldl_max (fun j => 1 + (sel j).pos) (List.finRange 8) 0).2 j (List.mem_finRange j)

/-- Both bounds of 00_scope.md R4 and 41_round_function.md R159 on the length of a digest. -/
theorem max_le_digestBytes : max Config.minDigestBytes (selSpan Config.selTable) ≤ digestBytes := Nat.le_add_right _ _

theorem digestOf_length (m : Msg) : (digestOf m).length = digestBytes := by
  rw [digestOf, List.length_map, List.length_range]

/-! ## The bits of the reduction -/

theorem foldl_or_getLsbD {α : Type} (f : α → Word) (i : Nat) (l : List α) : ∀ acc : Word,
    (l.foldl (fun acc a => acc ||| f a) acc).getLsbD i = (acc.getLsbD i || l.any fun a => (f a).getLsbD i) := by
  induction l with
  | nil => simp
  | cons b l ih =>
    intro acc
    rw [List.foldl_cons, ih, BitVec.getLsbD_or, List.any_cons, Bool.or_assoc]

theorem reduceWith_getLsbD (sel : Fin 8 → SelEntry) (d : Digest) (i : Nat) :
    (reduceWith sel d).getLsbD i = (List.finRange 8).any fun j => (selByte (sel j) d).getLsbD i := by
  rw [reduceWith, foldl_or_getLsbD, show (0 : Word).getLsbD i = false from BitVec.getLsbD_zero, Bool.false_or]

/-- A selected byte has its bits in its own lane only. -/
theorem selByte_getLsbD (e : SelEntry) (d : Digest) {i : Nat} (hi : i < 64) :
    (selByte e d).getLsbD i = (decide (i / 8 = e.lane.val) && (d.getD e.pos 0).getLsbD (i % 8)) := by
  have hshift : i - 8 * e.lane.val < 64 := by omega
  simp only [selByte, BitVec.getLsbD_shiftLeft, BitVec.getLsbD_setWidth, hi, hshift, decide_true, Bool.true_and]
  by_cases hlane : i / 8 = e.lane.val
  · have hbit : i - 8 * e.lane.val = i % 8 := by omega
    have hlow : ¬ i < 8 * e.lane.val := by omega
    simp [hlane, hbit, hlow]
  · by_cases hlow : i < 8 * e.lane.val
    · simp [hlane, hlow]
    · rw [BitVec.getLsbD_of_ge (d.getD e.pos 0) (i - 8 * e.lane.val) (by omega)]
      simp [hlane]

/-- 41_round_function.md R158: with the default table bit `i` comes from the byte of its lane, counted from the top. -/
theorem reduceWith_default_getLsbD (d : Digest) {i : Nat} (hi : i < 64) :
    (reduceWith defaultSel d).getLsbD i = (d.getD (7 - i / 8) 0).getLsbD (i % 8) := by
  rw [reduceWith_getLsbD, Bool.eq_iff_iff, List.any_eq_true]
  simp only [selByte_getLsbD _ d hi, Bool.and_eq_true, decide_eq_true_eq, defaultSel]
  constructor
  · rintro ⟨j, -, hlane, hbit⟩
    rwa [show 7 - i / 8 = j.val by omega]
  · exact fun hbit => ⟨⟨7 - i / 8, by omega⟩, List.mem_finRange _, show i / 8 = 7 - (7 - i / 8) by omega, hbit⟩

theorem reduceWith_default_byte (d : Digest) (j : Fin 8) (h : 8 ≤ d.length) :
    (reduceWith defaultSel d).extractLsb' (56 - 8 * j.val) 8 = d[j.val] := by
  apply BitVec.eq_of_getLsbD_eq
  intro i hi
  rw [BitVec.getLsbD_extractLsb', decide_eq_true hi, Bool.true_and, reduceWith_default_getLsbD d (by omega),
    show 7 - (56 - 8 * j.val + i) / 8 = j.val by omega, show (56 - 8 * j.val + i) % 8 = i by omega,
    List.getD_eq_getElem d 0 (by omega)]

/-- Two words agree under the mask of `h` bits when they agree on the bits below `h`. -/
theorem and_rightMask_congr {x y : Word} {h : Nat} (hh : h ≤ 32) (hbits : ∀ i < h, x.getLsbD i = y.getLsbD i) :
    x &&& rightMask h = y &&& rightMask h := by
  apply BitVec.eq_of_getLsbD_eq
  intro i _
  rw [BitVec.getLsbD_and, BitVec.getLsbD_and, rightMask_getLsbD hh]
  by_cases hi : i < h
  · rw [hbits i hi]
  · simp [hi]

/-- Only the last `ceil(h / 8)` of the first eight digest bytes reach the low `h` bits. -/
theorem reduceWith_default_masked {d d' : Digest} {h : Nat} (hh : h ≤ 32)
    (hbytes : ∀ i, 8 - (h + 7) / 8 ≤ i → i ≤ 7 → d.getD i 0 = d'.getD i 0) :
    reduceWith defaultSel d &&& rightMask h = reduceWith defaultSel d' &&& rightMask h := by
  refine and_rightMask_congr hh fun i hi => ?_
  rw [reduceWith_default_getLsbD d (by omega), reduceWith_default_getLsbD d' (by omega),
    hbytes (7 - i / 8) (by omega) (by omega)]

/-! ## The obligations -/

/-- Settles O26: the value is written over before the message is hashed. -/
theorem roundFunctionIgnoresValue : Obligations.RoundFunctionIgnoresValue := fun v v' key mask =>
  ⟨(roundF_eq_keyDigest v key mask).trans (roundF_eq_keyDigest v' key mask).symm, msg_eq_msg v v' key,
    roundF_eq_keyDigest v key mask⟩

/-- Settles O27: each byte pushed on the wires moves the earlier ones up a lane. -/
theorem hashPortByteLanes : Obligations.HashPortByteLanes :=
  ⟨msgWires_lane, fun x i h => ⟨digestOfWires_length x, digestOfWires_getElem x i h⟩⟩

/-- Settles O28: the length is at least the greater of the two bounds. -/
theorem selectedBytesAreInDigest : Obligations.SelectedBytesAreInDigest :=
  ⟨(le_max_left _ _).trans max_le_digestBytes,
    fun j => (pos_lt_selSpan Config.selTable j).trans ((le_max_right _ _).trans max_le_digestBytes), digestOf_length⟩

/-- Settles O29: by which digest byte each bit of the reduction comes from. -/
theorem defaultReductionIsBigEndian : Obligations.DefaultReductionIsBigEndian :=
  ⟨reduceWith_default_byte, fun _ _ _ _ _ hh hbytes => reduceWith_default_masked hh hbytes⟩

end Sys2Proof.Machine
end

section
/-! PROOF. The half width in closed form: `n <= 4^k` is a bound on the bit length of `n - 1` (40_precompute.md R123, R124); then
O24. -/

namespace Sys2Proof.Machine

/-- A number of at least 1 is at most `4^k` exactly when the number before it has at most `2k` bits. -/
theorem le_four_pow_iff_size {m : Nat} (hm : 1 ≤ m) (k : Nat) : m ≤ 4 ^ k ↔ Nat.size (m - 1) ≤ 2 * k := by
  rw [Nat.size_le, pow_mul, show 2 ^ 2 = 4 by rfl]
  omega

/-- The closed form of 40_precompute.md R123 is the least half width. -/
theorem closedForm_isHalfBits {n : Word} (hn : 1 ≤ n.toNat) :
    IsHalfBits n (max 1 ((Nat.size (n.toNat - 1) + 1) / 2)) := by
  refine ⟨by omega, (le_four_pow_iff_size hn _).mpr (by omega), fun k hpos hk => ?_⟩
  have hsize := (le_four_pow_iff_size hn k).mp hk
  omega

/-- 40_precompute.md R124: the half width is 32 exactly where 31 is too small. -/
theorem IsHalfBits.eq_halfMax_iff {n : Word} {h : Nat} (hh : IsHalfBits n h) : h = 32 ↔ 2 ^ 62 < n.toNat := by
  have hmax : h ≤ 32 := hh.le_halfMax
  obtain ⟨-, hle, hmin⟩ := hh
  have h31 : n.toNat ≤ 4 ^ 31 ↔ h ≤ 31 :=
    ⟨hmin 31 (by decide), fun hsmall => hle.trans (Nat.pow_le_pow_right (by decide) hsmall)⟩
  rw [show (2 : Nat) ^ 62 = 4 ^ 31 by norm_num, ← Nat.not_le, h31]
  omega

/-- Settles O24: the closed form is the least half width, of which there is one, and the masks are those of a width up to 32. -/
theorem halfBitsClosedFormAndRange : Obligations.HalfBitsClosedFormAndRange := by
  intro n hn
  have hleast : IsHalfBits n (halfBits n) := halfBits_isHalfBits n
  have hmax : halfBits n ≤ 32 := hleast.le_halfMax
  exact ⟨hleast.unique (closedForm_isHalfBits hn), hleast.left, hmax, hleast.eq_halfMax_iff,
    leftMask_or_rightMask_toNat hmax, rightMask_toNat hmax⟩

end Sys2Proof.Machine
end

section
/-! PROOF. A round keeps the halves below `2^h` and is undone by the round of the other direction, so encode and decode are
mutually inverse; and the round values, which depend on the keys alone, collapse the three rounds to a closed form
(42_feistel_apply.md R173 to R182); then O43 and O44. -/

namespace Sys2Proof.Machine

/-! ## Rounds -/

/-- 42_feistel_apply.md R174: a backward round undoes the forward round with the same key. -/
theorem roundBwd_roundFwd (p : Network) (key : Word) (lr : Half × Half) : p.roundBwd key (p.roundFwd key lr) = lr := by
  obtain ⟨l, r⟩ := lr
  simp only [Network.roundBwd, Network.roundFwd, combineFwd, combineBwd, BitVec.xor_assoc, BitVec.xor_self,
    BitVec.xor_zero]

theorem roundFwd_roundBwd (p : Network) (key : Word) (lr : Half × Half) : p.roundFwd key (p.roundBwd key lr) = lr := by
  obtain ⟨l, r⟩ := lr
  simp only [Network.roundBwd, Network.roundFwd, combineFwd, combineBwd, BitVec.xor_assoc, BitVec.xor_self,
    BitVec.xor_zero]

/-- Both halves are below `2^h` (42_feistel_apply.md R180). -/
def Network.Small (p : Network) (lr : Half × Half) : Prop := lr.1.toNat < 2 ^ p.h ∧ lr.2.toNat < 2 ^ p.h

section
variable {p : Network} (wf : p.WellFormed)
include wf

theorem split_isSmall (x : Word) : p.Small (p.split x) := split_small wf x

theorem roundFwd_isSmall (key : Word) {lr : Half × Half} (h : p.Small lr) : p.Small (p.roundFwd key lr) :=
  ⟨h.2, xor_round_toNat_lt wf _ h.1⟩

theorem roundBwd_isSmall (key : Word) {lr : Half × Half} (h : p.Small lr) : p.Small (p.roundBwd key lr) :=
  ⟨xor_round_toNat_lt wf _ h.2, h.1⟩

theorem join_lt_of_isSmall {lr : Half × Half} (h : p.Small lr) : (p.join lr).toNat < 4 ^ p.h := join_toNat_lt wf h.1 h.2

theorem split_join_of_isSmall {lr : Half × Half} (h : p.Small lr) : p.split (p.join lr) = lr := split_join wf h.1 h.2

/-! ## Applications -/

theorem encodeRounds_isSmall (x : Word) :
    p.Small (p.roundFwd p.key2 (p.roundFwd p.key1 (p.roundFwd p.key0 (p.split x)))) :=
  roundFwd_isSmall wf _ (roundFwd_isSmall wf _ (roundFwd_isSmall wf _ (split_isSmall wf x)))

theorem decodeRounds_isSmall (x : Word) :
    p.Small (p.roundBwd p.key0 (p.roundBwd p.key1 (p.roundBwd p.key2 (p.split x)))) :=
  roundBwd_isSmall wf _ (roundBwd_isSmall wf _ (roundBwd_isSmall wf _ (split_isSmall wf x)))

theorem Network.encode_lt (x : Word) : (p.encode x).toNat < 4 ^ p.h := join_lt_of_isSmall wf (encodeRounds_isSmall wf x)

theorem Network.decode_lt (x : Word) : (p.decode x).toNat < 4 ^ p.h := join_lt_of_isSmall wf (decodeRounds_isSmall wf x)

theorem Network.decode_encode {x : Word} (hx : x.toNat < 4 ^ p.h) : p.decode (p.encode x) = x := by
  rw [Network.decode, Network.encode, split_join_of_isSmall wf (encodeRounds_isSmall wf x), roundBwd_roundFwd,
    roundBwd_roundFwd, roundBwd_roundFwd, join_split wf hx]

theorem Network.encode_decode {x : Word} (hx : x.toNat < 4 ^ p.h) : p.encode (p.decode x) = x := by
  rw [Network.encode, Network.decode, split_join_of_isSmall wf (decodeRounds_isSmall wf x), roundFwd_roundBwd,
    roundFwd_roundBwd, roundFwd_roundBwd, join_split wf hx]

end

/-! ## The closed form -/

/-- The round value of a key, which depends on nothing else (42_feistel_apply.md R181). -/
def Network.roundValue (p : Network) (key : Word) : Word := keyDigest key &&& p.rmask

theorem roundFwd_eq (p : Network) (key : Word) (lr : Half × Half) :
    p.roundFwd key lr = (lr.2, lr.1 ^^^ (p.roundValue key).setWidth 32) := by
  rw [Network.roundFwd, roundF_eq_keyDigest, combineFwd, Network.roundValue]

theorem roundBwd_eq (p : Network) (key : Word) (lr : Half × Half) :
    p.roundBwd key lr = (lr.2 ^^^ (p.roundValue key).setWidth 32, lr.1) := by
  rw [Network.roundBwd, roundF_eq_keyDigest, combineBwd, Network.roundValue]

/-- The two halves of a value side by side, on 64 bits (42_feistel_apply.md R175). -/
def Network.pair (p : Network) (l r : Word) : Word := (l <<< p.h) ||| r

/-- The left half of a value as a 64-bit word. -/
def Network.leftWord (p : Network) (x : Word) : Word := (x &&& p.lmask) >>> p.h

/-- The right half of a value as a 64-bit word. -/
def Network.rightWord (p : Network) (x : Word) : Word := x &&& p.rmask

theorem xor_lt {p : Network} {a b : Word} (ha : a.toNat < 2 ^ p.h) (hb : b.toNat < 2 ^ p.h) : (a ^^^ b).toNat < 2 ^ p.h := by
  rw [BitVec.toNat_xor]
  exact Nat.xor_lt_two_pow ha hb

theorem xor_sum_of_middle (a c0 c1 c2 : Word) : a ^^^ c1 ^^^ (c0 ^^^ c1 ^^^ c2) = a ^^^ c0 ^^^ c2 :=
  calc a ^^^ c1 ^^^ (c0 ^^^ c1 ^^^ c2)
    _ = a ^^^ c0 ^^^ c2 ^^^ (c1 ^^^ c1) := by ac_rfl
    _ = a ^^^ c0 ^^^ c2 := by rw [BitVec.xor_self, BitVec.xor_zero]

theorem xor_sum_of_outer (a c0 c1 c2 : Word) : a ^^^ c0 ^^^ c2 ^^^ (c0 ^^^ c1 ^^^ c2) = a ^^^ c1 :=
  calc a ^^^ c0 ^^^ c2 ^^^ (c0 ^^^ c1 ^^^ c2)
    _ = a ^^^ c1 ^^^ (c0 ^^^ c0) ^^^ (c2 ^^^ c2) := by ac_rfl
    _ = a ^^^ c1 := by rw [BitVec.xor_self, BitVec.xor_self, BitVec.xor_zero, BitVec.xor_zero]

/-- The pair of XORs is the XOR of the pairs, since the right words stay below the left ones. -/
theorem pair_xor {p : Network} {b d : Word} (hb : b.toNat < 2 ^ p.h) (hd : d.toNat < 2 ^ p.h) (a c : Word) :
    p.pair (a ^^^ c) (b ^^^ d) = p.pair a b ^^^ p.pair c d := by
  apply BitVec.eq_of_getLsbD_eq
  intro i hi
  simp only [Network.pair, BitVec.getLsbD_or, BitVec.getLsbD_xor, BitVec.getLsbD_shiftLeft]
  by_cases hlow : i < p.h
  · simp [hlow]
  · have hpow : 2 ^ p.h ≤ 2 ^ i := Nat.pow_le_pow_right (by decide) (Nat.not_lt.mp hlow)
    have hbi : b.getLsbD i = false := Nat.testBit_lt_two_pow (hb.trans_le hpow)
    have hdi : d.getLsbD i = false := Nat.testBit_lt_two_pow (hd.trans_le hpow)
    rw [hbi, hdi]
    simp [hlow, Bool.and_xor_distrib_left]

section
variable {p : Network} (wf : p.WellFormed)
include wf

theorem roundValue_lt (key : Word) : (p.roundValue key).toNat < 2 ^ p.h := and_rmask_toNat_lt wf _

theorem rightWord_lt (x : Word) : (p.rightWord x).toNat < 2 ^ p.h := and_rmask_toNat_lt wf x

theorem leftWord_lt (x : Word) : (p.leftWord x).toNat < 2 ^ p.h := by
  have hmask : p.lmask = leftMask p.h := by
    rw [wf.left_mask, wf.right_mask]
    rfl
  rw [Network.leftWord, hmask, and_leftMask_toNat x wf.h_le]
  exact Nat.mod_lt _ (by positivity)

/-- Halves that fit lose nothing in the 32-bit registers (log 19). -/
theorem join_setWidth {a b : Word} (ha : a.toNat < 2 ^ p.h) (hb : b.toNat < 2 ^ p.h) :
    p.join (a.setWidth 32, b.setWidth 32) = p.pair a b := by
  have hpow : 2 ^ p.h ≤ 2 ^ 32 := pow_two_le_of_le wf.h_le
  have hback : ∀ {v : Word}, v.toNat < 2 ^ p.h → (v.setWidth 32).setWidth 64 = v := by
    intro v hv
    apply BitVec.eq_of_toNat_eq
    rw [BitVec.toNat_setWidth, BitVec.toNat_setWidth, Nat.mod_eq_of_lt (hv.trans_le hpow), Nat.mod_eq_of_lt v.isLt]
  rw [Network.join, hback ha, hback hb, Network.pair]

theorem pair_words {x : Word} (hx : x.toNat < 4 ^ p.h) : p.pair (p.leftWord x) (p.rightWord x) = x := by
  rw [← join_setWidth wf (leftWord_lt wf x) (rightWord_lt wf x)]
  exact join_split wf hx

/-- 42_feistel_apply.md R182: the closed form of encode. -/
theorem encode_eq_pair (x : Word) :
    p.encode x = p.pair (p.rightWord x ^^^ p.roundValue p.key1)
      (p.leftWord x ^^^ p.roundValue p.key0 ^^^ p.roundValue p.key2) := by
  have hvalue := roundValue_lt wf
  rw [← join_setWidth wf (xor_lt (rightWord_lt wf x) (hvalue _))
    (xor_lt (xor_lt (leftWord_lt wf x) (hvalue _)) (hvalue _))]
  simp only [Network.encode, roundFwd_eq, BitVec.setWidth_xor]
  rfl

/-- 42_feistel_apply.md R182: the closed form of decode. -/
theorem decode_eq_pair (x : Word) :
    p.decode x = p.pair (p.rightWord x ^^^ p.roundValue p.key0 ^^^ p.roundValue p.key2)
      (p.leftWord x ^^^ p.roundValue p.key1) := by
  have hvalue := roundValue_lt wf
  rw [BitVec.xor_assoc, BitVec.xor_comm (p.roundValue p.key0), ← BitVec.xor_assoc,
    ← join_setWidth wf (xor_lt (xor_lt (rightWord_lt wf x) (hvalue _)) (hvalue _))
      (xor_lt (leftWord_lt wf x) (hvalue _))]
  simp only [Network.decode, roundBwd_eq, BitVec.setWidth_xor]
  rfl

/-- The XOR of the three round values of a network (42_feistel_apply.md R182). -/
def Network.valueSum (p : Network) : Word := p.roundValue p.key0 ^^^ p.roundValue p.key1 ^^^ p.roundValue p.key2

theorem valueSum_lt : p.valueSum.toNat < 2 ^ p.h :=
  xor_lt (xor_lt (roundValue_lt wf _) (roundValue_lt wf _)) (roundValue_lt wf _)

theorem decode_eq_encode_xor (x : Word) : p.decode x = p.encode x ^^^ p.pair p.valueSum p.valueSum := by
  have hright : (p.leftWord x ^^^ p.roundValue p.key0 ^^^ p.roundValue p.key2).toNat < 2 ^ p.h :=
    xor_lt (xor_lt (leftWord_lt wf x) (roundValue_lt wf _)) (roundValue_lt wf _)
  rw [encode_eq_pair wf, decode_eq_pair wf, ← pair_xor hright (valueSum_lt wf), Network.valueSum,
    xor_sum_of_middle, xor_sum_of_outer]

/-- 42_feistel_apply.md R182: the square of encode. Decode undoes encode, and the two differ by a constant. -/
theorem encode_encode {x : Word} (hx : x.toNat < 4 ^ p.h) :
    p.encode (p.encode x) = x ^^^ p.pair p.valueSum p.valueSum := by
  calc p.encode (p.encode x)
    _ = p.encode (p.encode x) ^^^ p.pair p.valueSum p.valueSum ^^^ p.pair p.valueSum p.valueSum := by
      rw [BitVec.xor_assoc, BitVec.xor_self, BitVec.xor_zero]
    _ = x ^^^ p.pair p.valueSum p.valueSum := by rw [← decode_eq_encode_xor wf, Network.decode_encode wf hx]

end

/-! ## The obligations -/

/-- Settles O43: each round of one direction is undone by the round of the other, and split and join are inverse below `4^h`. -/
theorem encodeDecodeInverse : Obligations.EncodeDecodeInverse := fun _ wf x hx =>
  ⟨Network.decode_encode wf hx, Network.encode_decode wf hx, Network.encode_lt wf x, Network.decode_lt wf x⟩

/-- Settles O44: the closed forms; the difference of the two; and from it and the inversion the square of encode. -/
theorem applicationClosedForm : Obligations.ApplicationClosedForm := by
  rintro p wf _ _ _ x _ _ rfl rfl rfl rfl rfl
  exact ⟨encode_eq_pair wf x, decode_eq_pair wf x, encode_encode wf, decode_eq_encode_xor wf x⟩

end Sys2Proof.Machine
end

section
/-! PROOF. The walk of a function with an inverse on an initial segment: it lands at most once, the walk of the inverse retraces it,
and it lands within the size of the gap; four applications of encode or of decode are the identity, which bounds every walk by 4
(43_cycle_walk.md R204 to R212); then O45, O46 and O47. -/

namespace Sys2Proof.Machine

/-! ## Functions inverse to each other below a bound -/

/-- `f` and `g` map the numbers below `b` to numbers below `b` and are inverse there. -/
structure InverseBelow (b : Nat) (f g : Word → Word) : Prop where
  maps : ∀ x : Word, x.toNat < b → (f x).toNat < b
  maps_inv : ∀ x : Word, x.toNat < b → (g x).toNat < b
  left_inv : ∀ x : Word, x.toNat < b → g (f x) = x
  right_inv : ∀ x : Word, x.toNat < b → f (g x) = x

theorem InverseBelow.symm {b : Nat} {f g : Word → Word} (h : InverseBelow b f g) : InverseBelow b g f :=
  ⟨h.maps_inv, h.maps, h.right_inv, h.left_inv⟩

section
variable {b : Nat} {f g : Word → Word} (h : InverseBelow b f g)
include h

theorem InverseBelow.iterate_lt {x : Word} (hx : x.toNat < b) (k : Nat) : (f^[k] x).toNat < b := by
  induction k with
  | zero => exact hx
  | succ k ih =>
    rw [Function.iterate_succ_apply']
    exact h.maps _ ih

/-- Going back `j` of `k + j` applications leaves `k`. -/
theorem InverseBelow.iterate_inv_iterate {x : Word} (hx : x.toNat < b) (k j : Nat) : g^[j] (f^[k + j] x) = f^[k] x := by
  induction j with
  | zero => rfl
  | succ j ih =>
    rw [Function.iterate_succ_apply, show k + (j + 1) = (k + j) + 1 by omega, Function.iterate_succ_apply',
      h.left_inv _ (h.iterate_lt hx (k + j)), ih]

/-- If two of the iterates of `x` agree, then `x` comes back after as many applications as lie between them. -/
theorem InverseBelow.iterate_sub {x : Word} (hx : x.toNat < b) {i j : Nat} (hij : i ≤ j) (he : f^[i] x = f^[j] x) :
    f^[j - i] x = x := by
  have hback := h.iterate_inv_iterate hx (j - i) i
  rw [Nat.sub_add_cancel hij, ← he] at hback
  have hstart := h.iterate_inv_iterate hx 0 i
  rw [Nat.zero_add] at hstart
  exact hback.symm.trans hstart

end

/-! ## Walks -/

theorem WalksTo.lt {f : Word → Word} {n x y : Word} {k : Nat} (h : WalksTo f n x k y) : y < n := by
  obtain ⟨-, -, hy, -⟩ := h
  exact hy

/-- The first landing application is unique (43_cycle_walk.md R204). -/
theorem WalksTo.unique {f : Word → Word} {n x y y' : Word} {k k' : Nat} (h : WalksTo f n x k y) (h' : WalksTo f n x k' y') :
    k = k' ∧ y = y' := by
  obtain ⟨hk, rfl, hlt, hmiss⟩ := h
  obtain ⟨hk', rfl, hlt', hmiss'⟩ := h'
  rcases Nat.lt_trichotomy k k' with hlower | rfl | hlower
  · exact absurd hlt (BitVec.not_lt.mpr (hmiss' k hk hlower))
  · exact ⟨rfl, rfl⟩
  · exact absurd hlt' (BitVec.not_lt.mpr (hmiss k' hk' hlower))

/-- Where some application lands, there is a first that does. -/
theorem exists_walksTo_of_lands {f : Word → Word} {n x : Word} {k : Nat} (hk : 1 ≤ k) (hland : f^[k] x < n) :
    ∃ j, j ≤ k ∧ WalksTo f n x j (f^[j] x) := by
  classical
  have hex : ∃ j, 1 ≤ j ∧ f^[j] x < n := ⟨k, hk, hland⟩
  obtain ⟨hpos, hlt⟩ := Nat.find_spec hex
  refine ⟨Nat.find hex, Nat.find_min' hex ⟨hk, hland⟩, hpos, rfl, hlt, fun j h1 hj => ?_⟩
  exact BitVec.not_lt.mp fun hlt' => Nat.find_min hex hj ⟨h1, hlt'⟩

section
variable {b : Nat} {f g : Word → Word} (h : InverseBelow b f g)
include h

/-- 43_cycle_walk.md R209: the walk of the inverse goes back the same way, with as many applications. -/
theorem InverseBelow.walksTo_inv {n x y : Word} {k : Nat} (hn : n.toNat ≤ b) (hx : x < n) (hw : WalksTo f n x k y) :
    WalksTo g n y k x := by
  have hxb : x.toNat < b := (BitVec.lt_def.mp hx).trans_le hn
  obtain ⟨hk, rfl, _, hmiss⟩ := hw
  have hback : ∀ j ≤ k, g^[j] (f^[k] x) = f^[k - j] x := fun j hj => by
    have hj' := h.iterate_inv_iterate hxb (k - j) j
    rwa [Nat.sub_add_cancel hj] at hj'
  refine ⟨hk, ?_, hx, fun j h1 hj => ?_⟩
  · rw [hback k le_rfl, Nat.sub_self, Function.iterate_zero_apply]
  · rw [hback j hj.le]
    exact hmiss (k - j) (by omega) (by omega)

/-- 43_cycle_walk.md R206: the applications before the landing one reach distinct values from `n` on, of which there are
`b - n`. -/
theorem InverseBelow.walksTo_le {n x y : Word} {k : Nat} (hn : n.toNat ≤ b) (hx : x < n) (hw : WalksTo f n x k y) :
    k ≤ b - n.toNat + 1 := by
  have hxb : x.toNat < b := (BitVec.lt_def.mp hx).trans_le hn
  obtain ⟨hk, -, -, hmiss⟩ := hw
  have hdistinct : ∀ i j, 1 ≤ i → i < j → j < k → f^[i] x ≠ f^[j] x := by
    intro i j hi hij hj he
    have hcycle := h.iterate_sub hxb hij.le he
    have hout := hmiss (j - i) (by omega) (by omega)
    rw [hcycle] at hout
    exact BitVec.not_lt.mpr hout hx
  have hcard : (Finset.Ico 1 k).card ≤ (Finset.Ico n.toNat b).card := by
    refine Finset.card_le_card_of_injOn (fun j => (f^[j] x).toNat) (fun j hj => ?_) (fun i hi j hj he => ?_)
    · obtain ⟨h1, hlt⟩ := Finset.mem_Ico.mp hj
      exact Finset.mem_coe.mpr (Finset.mem_Ico.mpr ⟨BitVec.le_def.mp (hmiss j h1 hlt), h.iterate_lt hxb j⟩)
    · obtain ⟨hi1, hik⟩ := Finset.mem_Ico.mp hi
      obtain ⟨hj1, hjk⟩ := Finset.mem_Ico.mp hj
      have heq : f^[i] x = f^[j] x := BitVec.eq_of_toNat_eq he
      rcases Nat.lt_trichotomy i j with hlt | rfl | hlt
      · exact absurd heq (hdistinct i j hi1 hlt hjk)
      · rfl
      · exact absurd heq.symm (hdistinct j i hj1 hlt hik)
  rw [Nat.card_Ico, Nat.card_Ico] at hcard
  omega

end

/-! ## The walks of encode and decode -/

section
variable {p : Network} (wf : p.WellFormed)
include wf

theorem inverseBelow_encode : InverseBelow (4 ^ p.h) p.encode p.decode :=
  ⟨fun x _ => Network.encode_lt wf x, fun x _ => Network.decode_lt wf x, fun _ => Network.decode_encode wf,
    fun _ => Network.encode_decode wf⟩

/-- 43_cycle_walk.md R212: by the square of encode, four applications are the identity. -/
theorem iterate_four_encode {x : Word} (hx : x.toNat < 4 ^ p.h) : p.encode^[4] x = x := by
  have hsquare : (p.encode (p.encode x)).toNat < 4 ^ p.h := Network.encode_lt wf _
  calc p.encode^[4] x
    _ = p.encode (p.encode (p.encode (p.encode x))) := rfl
    _ = x ^^^ p.pair p.valueSum p.valueSum ^^^ p.pair p.valueSum p.valueSum := by
      rw [encode_encode wf hsquare, encode_encode wf hx]
    _ = x := by rw [BitVec.xor_assoc, BitVec.xor_self, BitVec.xor_zero]

theorem iterate_four_decode {x : Word} (hx : x.toNat < 4 ^ p.h) : p.decode^[4] x = x := by
  have hback := (inverseBelow_encode wf).iterate_inv_iterate hx 0 4
  rwa [Nat.zero_add, iterate_four_encode wf hx, Function.iterate_zero_apply] at hback

/-- The inverse pair of an opcode's direction (42_feistel_apply.md R178). -/
theorem exists_inverseBelow_apply (op : Opcode) : ∃ g, InverseBelow (4 ^ p.h) (p.apply op) g := by
  unfold Network.apply
  cases op.forward
  · exact ⟨_, (inverseBelow_encode wf).symm⟩
  · exact ⟨_, inverseBelow_encode wf⟩

theorem iterate_four_apply (op : Opcode) {x : Word} (hx : x.toNat < 4 ^ p.h) : (p.apply op)^[4] x = x := by
  unfold Network.apply
  cases op.forward
  · exact iterate_four_decode wf hx
  · exact iterate_four_encode wf hx

/-- 43_cycle_walk.md R206, R212: the walk from inside `[0, n)` lands, since its fourth application is back at the start. -/
theorem exists_walksTo_apply (op : Opcode) {n x : Word} (hn : n.toNat ≤ 4 ^ p.h) (hx : x < n) :
    ∃ k y, WalksTo (p.apply op) n x k y ∧ k ≤ 4 ∧ k ≤ 4 ^ p.h - n.toNat + 1 := by
  have hfour : (p.apply op)^[4] x < n := by rwa [iterate_four_apply wf op ((BitVec.lt_def.mp hx).trans_le hn)]
  obtain ⟨g, hinv⟩ := exists_inverseBelow_apply wf op
  obtain ⟨k, hk, hw⟩ := exists_walksTo_of_lands (by decide) hfour
  exact ⟨k, _, hw, hk, hinv.walksTo_le hn hx hw⟩

end

/-! ## Powers of 4 -/

/-- 40_precompute.md R127: the superset of the least half width is the domain exactly when `N` is a power of 4 other than 1. -/
theorem four_pow_eq_iff {n : Word} {h : Nat} (hh : IsHalfBits n h) : 4 ^ h = n.toNat ↔ ∃ m, 1 ≤ m ∧ n.toNat = 4 ^ m := by
  obtain ⟨hpos, hle, hmin⟩ := hh
  refine ⟨fun he => ⟨h, hpos, he.symm⟩, ?_⟩
  rintro ⟨m, hm, he⟩
  refine le_antisymm ?_ hle
  rw [he]
  exact Nat.pow_le_pow_right (by decide) (hmin m hm he.le)

theorem walksTo_one_of_lt {f : Word → Word} {n x : Word} (h : f x < n) : WalksTo f n x 1 (f x) :=
  ⟨le_rfl, rfl, h, fun _ h1 hj => absurd hj (Nat.not_lt.mpr h1)⟩

theorem eq_zero_of_lt_one {x : Word} (hx : x < 1) : x = 0 :=
  BitVec.eq_of_toNat_eq (Nat.lt_one_iff.mp (BitVec.lt_def.mp hx))

/-- 40_precompute.md R128: with `N = 1` the one value of the domain is 0. -/
theorem walksTo_of_n_one {p : Network} (wf : p.WellFormed) (op : Opcode) {x y : Word} {k : Nat} (hx : x < 1)
    (hw : WalksTo (p.apply op) 1 x k y) : y = 0 ∧ k ≤ 4 := by
  have hn : (1 : Word).toNat ≤ 4 ^ p.h := Nat.one_le_pow _ _ (by decide)
  obtain ⟨k', y', hw', hk, -⟩ := exists_walksTo_apply wf op hn hx
  obtain ⟨rfl, rfl⟩ := hw.unique hw'
  exact ⟨eq_zero_of_lt_one hw.lt, hk⟩

/-! ## The obligations -/

/-- Settles O45: the two directions of a network are those of ENCODE and of DECODE. -/
theorem walkTerminates : Obligations.WalkTerminates := fun _ _ _ wf hn hx =>
  ⟨exists_walksTo_apply wf .encode hn hx, exists_walksTo_apply wf .decode hn hx⟩

/-- Settles O46: every walk lands, once, and the walk of the inverse goes back. -/
theorem walkIsBijection : Obligations.WalkIsBijection := by
  intro p n wf _ hn
  have hinv : InverseBelow (4 ^ p.h) p.encode p.decode := inverseBelow_encode wf
  refine ⟨fun x hx => ?_, fun y hy => ?_, fun x y k hx hw => hinv.walksTo_inv hn hx hw,
    fun x y k hx hw => hinv.symm.walksTo_inv hn hx hw⟩
  · obtain ⟨k, y, hw, -⟩ := exists_walksTo_apply wf .encode hn hx
    exact ⟨y, ⟨k, hw⟩, fun y' ⟨k', hw'⟩ => (WalksTo.unique hw' hw).2⟩
  · obtain ⟨k, x, hw, -⟩ := exists_walksTo_apply wf .decode hn hy
    refine ⟨x, ⟨hw.lt, k, hinv.symm.walksTo_inv hn hy hw⟩, fun x' ⟨hx', k', hw'⟩ => ?_⟩
    exact (WalksTo.unique (hinv.walksTo_inv hn hx' hw') hw).2

/-- Settles O47: on the whole superset every result lands at once; for `N = 1` by the bound on every walk. -/
theorem powerOfFourWalksOnce : Obligations.PowerOfFourWalksOnce := by
  refine ⟨fun n => four_pow_eq_iff (halfBits_isHalfBits n), fun p n m wf hh hm he => ?_, fun p x wf hx => ?_⟩
  · have hpow : 4 ^ p.h = n.toNat := by
      rw [hh]
      exact (four_pow_eq_iff (halfBits_isHalfBits n)).mpr ⟨m, hm, he⟩
    have hlt : ∀ x : Word, p.encode x < n ∧ p.decode x < n := fun x =>
      ⟨BitVec.lt_def.mpr (hpow ▸ Network.encode_lt wf x), BitVec.lt_def.mpr (hpow ▸ Network.decode_lt wf x)⟩
    exact ⟨hlt, fun x _ => ⟨walksTo_one_of_lt (hlt x).1, walksTo_one_of_lt (hlt x).2⟩⟩
  · exact ⟨eq_zero_of_lt_one hx, fun k y hw => hw.elim (walksTo_of_n_one wf .encode hx) (walksTo_of_n_one wf .decode hx)⟩

end Sys2Proof.Machine
end

section
/-! PROOF. What keeps the `STATUS` invariants: the transfer of the precomputation invariant, the error entry, the start and the end
of a command, each said once (10_state.md R28, R39); then O39. -/

namespace Sys2Proof.Machine

/-! ## The precomputation invariant -/

theorem TripleOfN.congr {s t : State} (h : TripleOfN s) (hn : t.n = s.n) (hh : t.hbits = s.hbits)
    (hr : t.rmask = s.rmask) (hl : t.lmask = s.lmask) : TripleOfN t := by
  constructor <;> simp only [hn, hh, hr, hl]
  exacts [h.half_bits, h.right_mask, h.left_mask, h.disjoint, h.cover]

/-- 40_precompute.md R121: the precompute step leaves the triple of the current `N`. -/
theorem tripleOfN_precomputeStep (s : State) : TripleOfN (precomputeStep s) := by
  have hleast : IsHalfBits s.n (halfBits s.n) := halfBits_isHalfBits s.n
  have hmax : halfBits s.n ≤ 32 := hleast.le_halfMax
  have hbits : (precomputeStep s).hbits.toNat = halfBits s.n := by
    rw [precomputeStep_hbits, BitVec.toNat_ofNat]
    exact Nat.mod_eq_of_lt (by omega)
  constructor <;> simp only [hbits, precomputeStep_n, precomputeStep_rmask, precomputeStep_lmask]
  exacts [hleast, rfl, rfl, leftMask_and_rightMask hmax, leftMask_or_rightMask_toNat hmax]

/-- The masks of a valid triple are those of a network of the superset domain. -/
theorem TripleOfN.wellFormed {s : State} (h : TripleOfN s) : s.network.WellFormed := by
  obtain ⟨hpos, -, -⟩ := id h.half_bits
  exact ⟨hpos, h.half_bits.le_halfMax, h.right_mask, h.left_mask⟩

theorem TripleOfN.n_le {s : State} (h : TripleOfN s) : s.n.toNat ≤ 4 ^ s.network.h := by
  obtain ⟨-, hle, -⟩ := h.half_bits
  exact hle

/-! ## Changes of `STATUS` -/

theorem ErrorKind.code_range (e : ErrorKind) : 1 ≤ e.code.toNat ∧ e.code.toNat ≤ 6 := by
  cases e <;> decide

section
variable {s : State} (hi : StatusInv s)
include hi

/-- The invariants speak of five fields of `STATUS`, of whether a command runs and of the triple. -/
theorem StatusInv.transfer {t : State} (busy : t.status.busy = s.status.busy) (done : t.status.done = s.status.done)
    (err : t.status.err = s.status.err) (errCode : t.status.errCode = s.status.errCode)
    (idle : t.ph = .idle ↔ s.ph = .idle) (triple : t.status.preValid = true → TripleOfN t) : StatusInv t := by
  constructor
  case triple => exact triple
  all_goals simp only [busy, done, err, errCode, ne_eq, idle]
  exacts [hi.busy_iff_running, hi.not_done_and_err, hi.busy_quiet, hi.no_err_no_code, hi.err_code]

theorem StatusInv.reject : StatusInv s.reject :=
  hi.transfer rfl rfl rfl rfl Iff.rfl fun hp => (hi.triple hp).congr rfl rfl rfl rfl

/-- 60_exceptions.md R252. -/
theorem StatusInv.raise (e : ErrorKind) : StatusInv (s.raise e) :=
  ⟨by simp, by simp, by simp, by simp, fun _ => e.code_range, fun hp => (hi.triple hp).congr rfl rfl rfl rfl⟩

/-- 44_control.md R239. -/
theorem StatusInv.clear : StatusInv s.clear :=
  ⟨hi.busy_iff_running, by simp, fun _ => ⟨rfl, rfl⟩, fun _ => rfl, by simp,
    fun hp => (hi.triple hp).congr rfl rfl rfl rfl⟩

/-- 44_control.md R233: a command starts only while `ERR = 0`. -/
theorem StatusInv.start {op : Opcode} {first : Phase} (he : s.status.err = false) (hfirst : first ≠ .idle) :
    StatusInv (s.start op first) :=
  ⟨by simp [hfirst], by simp, by simp [he], fun _ => hi.no_err_no_code he, by simp [he],
    fun hp => (hi.triple hp).congr rfl rfl rfl rfl⟩

/-- 44_control.md R236: a command that ends was running, so it ends with `ERR = 0`. -/
theorem StatusInv.finished {t : State} (hrun : s.status.busy = true) (busy : t.status.busy = false)
    (err : t.status.err = s.status.err) (errCode : t.status.errCode = s.status.errCode) (idle : t.ph = .idle)
    (triple : t.status.preValid = true → TripleOfN t) : StatusInv t := by
  obtain ⟨-, herr⟩ := hi.busy_quiet hrun
  exact ⟨by simp [busy, idle], by simp [err, herr], by simp [busy], fun _ => errCode ▸ hi.no_err_no_code herr,
    by simp [err, herr], triple⟩

theorem StatusInv.busy_of_ph {ph : Phase} (hph : s.ph = ph) (hne : ph ≠ .idle) : s.status.busy = true :=
  hi.busy_iff_running.mpr (hph ▸ hne)

/-! ## Steps -/

theorem AcceptEffect.statusInv {w : Word} {t : State} (h : AcceptEffect w s t) : StatusInv t := by
  cases h with
  | drop => exact hi.reject
  | nop => exact hi
  | clear => exact hi.clear
  | error e => exact hi.raise e
  | precompute _ he => exact hi.start he (by decide)
  | apply op _ he =>
    have hs : StatusInv (s.start op .setup) := hi.start he (by decide)
    exact hs.transfer rfl rfl rfl rfl Iff.rfl fun hp => (hs.triple hp).congr rfl rfl rfl rfl
  | roundf k _ he =>
    have hs : StatusInv (s.start .roundf .hreq) := hi.start he (by decide)
    exact hs.transfer rfl rfl rfl rfl Iff.rfl fun hp => (hs.triple hp).congr rfl rfl rfl rfl

theorem StatusInv.respond (r : BusResponse) : StatusInv (s.respond r) :=
  hi.transfer rfl rfl rfl rfl Iff.rfl fun hp => (hi.triple hp).congr rfl rfl rfl rfl

theorem HostEffect.statusInv {tr : BusTransaction} {t : State} (h : HostEffect tr s t) : StatusInv t := by
  cases h with
  | respond r => exact hi.respond r
  | drop => exact (hi.respond writeOk).reject
  | n => exact hi.transfer rfl rfl rfl rfl Iff.rfl nofun
  | accept t _ _ ha => exact ha.statusInv (hi.respond writeOk)
  | cfg | index | key0 | key1 | key2 | wlimit =>
    exact hi.transfer rfl rfl rfl rfl Iff.rfl fun hp => (hi.triple hp).congr rfl rfl rfl rfl

theorem EngineEffect.statusInv {t : State} (h : EngineEffect s t) : StatusInv t := by
  cases h with
  | stay => exact hi
  | precompute hph =>
    exact hi.finished (hi.busy_of_ph hph (by decide)) rfl rfl rfl rfl fun _ => tripleOfN_precomputeStep s
  | roundf _ hph | land hph =>
    exact hi.finished (hi.busy_of_ph hph (by decide)) rfl rfl rfl rfl fun hp => (hi.triple hp).congr rfl rfl rfl rfl
  | cap =>
    have hs : StatusInv { s with wcount := s.wc } :=
      hi.transfer rfl rfl rfl rfl Iff.rfl fun hp => (hi.triple hp).congr rfl rfl rfl rfl
    exact hs.raise .walkLimit
  | setup hph | request hph | forward _ hph | forwardLast _ hph | backward _ hph | backwardLast _ hph | again hph =>
    refine hi.transfer rfl rfl rfl rfl ?_ fun hp => (hi.triple hp).congr rfl rfl rfl rfl
    simp [hph]

theorem StepEffect.statusInv {e : Event} {t : State} (h : StepEffect s e t) : StatusInv t := by
  cases h with
  | host tr t ht => exact ht.statusInv hi
  | engine b t ht => exact ht.statusInv hi
  | hash => exact hi.transfer rfl rfl rfl rfl Iff.rfl fun hp => (hi.triple hp).congr rfl rfl rfl rfl
  | hashStay => exact hi
  | reset =>
    exact ⟨by simp [Status.reset], by simp [Status.reset], by simp [Status.reset], fun _ => rfl, by simp [Status.reset],
      nofun⟩

theorem StatusInv.advance : StatusInv s.advance := by
  rw [advance_eq]
  exact hi.transfer rfl rfl rfl rfl Iff.rfl fun hp => (hi.triple hp).congr rfl rfl rfl rfl

end

/-! ## The obligation -/

/-- Settles O39: taking the event off keeps the invariants, and so does everything that an agent's step can do. -/
theorem statusInvKept : Obligations.StatusInvKept := fun _ _ hi h => (step_effect h).statusInv hi.advance

end Sys2Proof.Machine
end

section
/-! PROOF. What keeps the invariant of the hidden registers: what an idle machine and each phase of an application need, said once,
then each agent's step (10_state.md R40 to R47; 42_feistel_apply.md R180); then O40. -/

namespace Sys2Proof.Machine

/-! ## What the phases need -/

/-- The registers that a running application was accepted with (42_feistel_apply.md R176; 43_cycle_walk.md R200). -/
structure Applying (s : State) : Prop where
  op : s.op.applies
  preValid : s.status.preValid = true
  keys : s.status.allKeys = true
  in_range : s.op.folds → s.index < s.n

theorem Opcode.not_roundf_of_applies {op : Opcode} (h : op.applies) : op ≠ .roundf := (Opcode.ne_of_applies h).2

theorem Opcode.not_applies_roundf : ¬ Opcode.roundf.applies := fun h => Opcode.not_roundf_of_applies h rfl

theorem Opcode.not_applies_precompute : ¬ Opcode.precompute.applies := fun h => (Opcode.ne_of_applies h).1 rfl

theorem Opcode.applies_of_folds {op : Opcode} (h : op.folds) : op.applies := h.elim (fun h => .inr (.inr (.inl h)))
  fun h => .inr (.inr (.inr h))

section
variable {t : State}

/-- The invariant says nothing more of an idle machine than that no request is out. -/
theorem EngineInv.of_idle (hs : StatusInv t) (hph : t.ph = .idle) (hhp : t.hp = .empty) : EngineInv t := by
  constructor
  case status => exact hs
  case port_empty => exact fun _ => hhp
  all_goals simp [hph, Phase.inApplication]

/-- What an application needs beside the registers it was accepted with: the port, the halves of its rounds, its value. -/
theorem EngineInv.of_applying (hs : StatusInv t) (ha : Applying t) (hph : t.ph.inApplication)
    (port : if t.ph = .hwait then t.hp = .pending t.request ∨ t.hp = .ready (digestOf t.request) else t.hp = .empty)
    (halves : t.ph = .hreq ∨ t.ph = .hwait → t.network.Small (t.wl, t.wr))
    (value : t.ph = .check → t.u.toNat < 4 ^ t.hbits.toNat) : EngineInv t where
  status := hs
  pre_op h := by simp [h, Phase.inApplication] at hph
  application_op _ := ha.op
  round_op _ := .inl ha.op
  triple_valid _ := ha.preValid
  keys_valid _ _ := ha.keys
  roundf_key_valid _ h := absurd h (Opcode.not_roundf_of_applies ha.op)
  folding_in_range _ := ha.in_range
  port_empty h := by rwa [if_neg h] at port
  port_waiting h := by rwa [if_pos h] at port
  halves_small h _ := halves h
  value_small := value

/-- What ROUNDF needs in its two phases (41_round_function.md R157). -/
theorem EngineInv.of_roundf (hs : StatusInv t) (hop : t.op = .roundf) (hph : t.ph = .hreq ∨ t.ph = .hwait)
    (hpre : t.status.preValid = true) (hkey : t.status.keyValid t.rnd = true)
    (port : if t.ph = .hwait then t.hp = .pending t.request ∨ t.hp = .ready (digestOf t.request) else t.hp = .empty) :
    EngineInv t where
  status := hs
  pre_op h := by simp [h] at hph
  application_op h := by rcases hph with hph | hph <;> simp [hph] at h
  round_op _ := .inr hop
  triple_valid _ := hpre
  keys_valid _ h := absurd h (hop ▸ Opcode.not_applies_roundf)
  roundf_key_valid _ _ := hkey
  folding_in_range _ h := absurd (Opcode.applies_of_folds h) (hop ▸ Opcode.not_applies_roundf)
  port_empty h := by rwa [if_neg h] at port
  port_waiting h := by rwa [if_pos h] at port
  halves_small _ h := absurd h (hop ▸ Opcode.not_applies_roundf)
  value_small h := by rcases hph with hph | hph <;> simp [hph] at h

end

section
variable {s : State} (hi : EngineInv s)
include hi

theorem EngineInv.applying (hph : s.ph.inApplication) (hop : s.op ≠ .roundf) : Applying s := by
  have happlies : s.op.applies := by
    rcases hph with h | h | h | h
    · exact hi.application_op (.inl h)
    · exact (hi.round_op (.inl h)).resolve_right hop
    · exact (hi.round_op (.inr h)).resolve_right hop
    · exact hi.application_op (.inr h)
  exact ⟨happlies, hi.triple_valid hph, hi.keys_valid hph happlies, hi.folding_in_range hph⟩

theorem EngineInv.triple (hph : s.ph.inApplication) : TripleOfN s := hi.status.triple (hi.triple_valid hph)

theorem EngineInv.wellFormed (hph : s.ph.inApplication) : s.network.WellFormed := (hi.triple hph).wellFormed

/-- In phase `SETUP` and in phase `CHECK` an application runs. -/
theorem EngineInv.applying_of_setup_or_check (hph : s.ph = .setup ∨ s.ph = .check) : Applying s :=
  hi.applying (hph.elim .inl fun h => .inr (.inr (.inr h))) (Opcode.not_roundf_of_applies (hi.application_op hph))

/-- The digest that has come is the answer to the round's request (41_round_function.md R152). -/
theorem EngineInv.digest_eq {d : Digest} (hph : s.ph = .hwait) (hhp : s.hp = .ready d) : d = digestOf s.request := by
  rcases hi.port_waiting hph with h | h <;> rw [hhp] at h
  · cases h
  · exact HashPort.ready.inj h

/-- The invariant does not speak of `CFG.IE`, of `REJ` and of the model's own fields of a step. -/
theorem EngineInv.frame (ie rej : Bool) (inputs : List Event) (turn : Nat) (resp : Option BusResponse) :
    EngineInv
      { s with
        ie := ie, status := { s.status with rej := rej }, inputs := inputs, turn := turn, resp := resp } :=
  ⟨hi.status.transfer rfl rfl rfl rfl Iff.rfl fun hp => (hi.status.triple hp).congr rfl rfl rfl rfl, hi.pre_op,
    hi.application_op, hi.round_op, hi.triple_valid, hi.keys_valid, hi.roundf_key_valid, hi.folding_in_range,
    hi.port_empty, hi.port_waiting, hi.halves_small, hi.value_small⟩

theorem EngineInv.advance : EngineInv s.advance := by
  rw [advance_eq]
  exact hi.frame ..

theorem EngineInv.idle_of_not_busy (hb : s.status.busy = false) : s.ph = .idle := by
  by_contra hph
  simpa [hb] using hi.status.busy_iff_running.mpr hph

theorem EngineInv.port_empty_of_not_busy (hb : s.status.busy = false) : s.hp = .empty :=
  hi.port_empty (by simp [hi.idle_of_not_busy hb])

/-! ## Steps -/

theorem AcceptEffect.engineInv {w : Word} {t : State} (h : AcceptEffect w s t) : EngineInv t := by
  have hs : StatusInv t := h.statusInv hi.status
  cases h with
  | drop => exact hi.frame s.ie true s.inputs s.turn s.resp
  | nop => exact hi
  | clear hb => exact .of_idle hs (hi.idle_of_not_busy hb) (hi.port_empty_of_not_busy hb)
  | error e hb => exact .of_idle hs rfl (hi.port_empty_of_not_busy hb)
  | precompute hb _ hn =>
    have hhp : s.hp = .empty := hi.port_empty_of_not_busy hb
    constructor
    case status => exact hs
    case pre_op => exact fun _ => ⟨rfl, hn⟩
    case port_empty => exact fun _ => hhp
    all_goals simp [Phase.inApplication]
  | apply op hb _ hp hk hop hfold =>
    exact .of_applying hs ⟨hop, hp, hk, hfold⟩ (.inl rfl) (hi.port_empty_of_not_busy hb) (by simp) (by simp)
  | roundf k hb _ hp hk => exact .of_roundf hs rfl (.inl rfl) hp hk (hi.port_empty_of_not_busy hb)

theorem EngineInv.respond (r : BusResponse) : EngineInv (s.respond r) :=
  hi.frame s.ie s.status.rej s.inputs s.turn (some r)

theorem HostEffect.engineInv {tr : BusTransaction} {t : State} (h : HostEffect tr s t) : EngineInv t := by
  have hs : StatusInv t := h.statusInv hi.status
  cases h with
  | respond r => exact hi.respond r
  | cfg => exact hi.frame _ s.status.rej s.inputs s.turn (some writeOk)
  | drop => exact hi.frame s.ie true s.inputs s.turn (some writeOk)
  | accept t _ _ ha => exact ha.engineInv (hi.respond writeOk)
  | n hb | index hb | key0 hb | key1 hb | key2 hb | wlimit hb =>
    exact .of_idle hs (hi.idle_of_not_busy hb) (hi.port_empty_of_not_busy hb)

/-- The XOR with a masked round value keeps a half below `2^h` (42_feistel_apply.md R180). -/
theorem EngineInv.halves_xor (hph : s.ph = .hwait) (hop : s.op ≠ .roundf) (r : Word) :
    (s.wl ^^^ (r &&& s.rmask).setWidth 32).toNat < 2 ^ s.network.h ∧
      (s.wr ^^^ (r &&& s.rmask).setWidth 32).toNat < 2 ^ s.network.h := by
  have happ : s.ph.inApplication := .inr (.inr (.inl hph))
  obtain ⟨hl, hr⟩ := hi.halves_small (.inr hph) (hi.applying happ hop).op
  exact ⟨xor_round_toNat_lt (hi.wellFormed happ) r hl, xor_round_toNat_lt (hi.wellFormed happ) r hr⟩

theorem EngineEffect.engineInv {t : State} (h : EngineEffect s t) : EngineInv t := by
  have hs : StatusInv t := h.statusInv hi.status
  cases h with
  | stay => exact hi
  | precompute hph => exact .of_idle hs rfl (hi.port_empty (by simp [hph]))
  | setup hph =>
    have ha : Applying s := hi.applying_of_setup_or_check (.inl hph)
    exact .of_applying hs ⟨ha.op, ha.preValid, ha.keys, ha.in_range⟩ (.inr (.inl rfl)) (hi.port_empty (by simp [hph]))
      (fun _ => split_isSmall (hi.wellFormed (.inl hph)) s.u) nofun
  | request hph hhp =>
    have happ : s.ph.inApplication := .inr (.inl hph)
    by_cases hop : s.op = .roundf
    · exact .of_roundf hs hop (.inr rfl) (hi.triple_valid happ) (hi.roundf_key_valid happ hop) (.inl rfl)
    · have ha : Applying s := hi.applying happ hop
      exact .of_applying hs ⟨ha.op, ha.preValid, ha.keys, ha.in_range⟩ (.inr (.inr (.inl rfl))) (.inl rfl)
        (fun _ => hi.halves_small (.inl hph) ha.op) nofun
  | roundf => exact .of_idle hs rfl rfl
  | forward d hph hhp hop =>
    have ha : Applying s := hi.applying (.inr (.inr (.inl hph))) hop
    obtain ⟨-, hr⟩ := hi.halves_small (.inr hph) ha.op
    obtain ⟨hl, -⟩ := hi.halves_xor hph hop (reduce d)
    exact .of_applying hs ⟨ha.op, ha.preValid, ha.keys, ha.in_range⟩ (.inr (.inl rfl)) rfl (fun _ => ⟨hr, hl⟩) nofun
  | backward d hph hhp hop =>
    have ha : Applying s := hi.applying (.inr (.inr (.inl hph))) hop
    obtain ⟨hl, -⟩ := hi.halves_small (.inr hph) ha.op
    obtain ⟨-, hr⟩ := hi.halves_xor hph hop (reduce d)
    exact .of_applying hs ⟨ha.op, ha.preValid, ha.keys, ha.in_range⟩ (.inr (.inl rfl)) rfl (fun _ => ⟨hr, hl⟩) nofun
  | forwardLast d hph hhp hop =>
    have happ : s.ph.inApplication := .inr (.inr (.inl hph))
    have ha : Applying s := hi.applying happ hop
    obtain ⟨-, hr⟩ := hi.halves_small (.inr hph) ha.op
    obtain ⟨hl, -⟩ := hi.halves_xor hph hop (reduce d)
    exact .of_applying hs ⟨ha.op, ha.preValid, ha.keys, ha.in_range⟩ (.inr (.inr (.inr rfl))) rfl nofun
      (fun _ => join_lt_of_isSmall (hi.wellFormed happ) ⟨hr, hl⟩)
  | backwardLast d hph hhp hop =>
    have happ : s.ph.inApplication := .inr (.inr (.inl hph))
    have ha : Applying s := hi.applying happ hop
    obtain ⟨hl, -⟩ := hi.halves_small (.inr hph) ha.op
    obtain ⟨-, hr⟩ := hi.halves_xor hph hop (reduce d)
    exact .of_applying hs ⟨ha.op, ha.preValid, ha.keys, ha.in_range⟩ (.inr (.inr (.inr rfl))) rfl nofun
      (fun _ => join_lt_of_isSmall (hi.wellFormed happ) ⟨hr, hl⟩)
  | land hph | cap hph => exact .of_idle hs rfl (hi.port_empty (by simp [hph]))
  | again hph =>
    have ha : Applying s := hi.applying_of_setup_or_check (.inr hph)
    exact .of_applying hs ⟨ha.op, ha.preValid, ha.keys, ha.in_range⟩ (.inl rfl) (hi.port_empty (by simp [hph])) nofun
      nofun

/-- A request is out in phase `HWAIT` only, and it is the request of the round. -/
theorem EngineInv.request_of_pending {m : Msg} (hm : s.hp = .pending m) : s.ph = .hwait ∧ m = s.request := by
  have hph : s.ph = .hwait := by
    by_contra hph
    simp [hi.port_empty hph] at hm
  refine ⟨hph, ?_⟩
  rcases hi.port_waiting hph with h | h <;> rw [hm] at h
  · exact HashPort.pending.inj h
  · cases h

theorem StepEffect.engineInv {e : Event} {t : State} (h : StepEffect s e t) : EngineInv t := by
  have hs : StatusInv t := h.statusInv hi.status
  cases h with
  | host tr t ht => exact ht.engineInv hi
  | engine b t ht => exact ht.engineInv hi
  | hash m hm =>
    obtain ⟨hph, rfl⟩ := hi.request_of_pending hm
    exact ⟨hs, hi.pre_op, hi.application_op, hi.round_op, hi.triple_valid, hi.keys_valid, hi.roundf_key_valid,
      hi.folding_in_range, fun h => absurd hph h, fun _ => .inr rfl, hi.halves_small, hi.value_small⟩
  | hashStay => exact hi
  | reset => exact .of_idle hs rfl rfl

end

/-! ## The obligation -/

/-- Settles O40: taking the event off keeps the invariant, and so does everything that an agent's step can do. -/
theorem engineInvKept : Obligations.EngineInvKept := fun _ _ hi h => (step_effect h).engineInv hi.advance

end Sys2Proof.Machine
end

section
/-! PROOF. What keeps the invariant of a walk: a round of the engine is a round of the network, the last round makes an application,
and the count of applications stays below 4 until one lands (42_feistel_apply.md R172 to R178; 43_cycle_walk.md R203 to R205); then
O41. -/

namespace Sys2Proof.Machine

/-! ## The engine's rounds and the network's -/

/-- One more forward round (42_feistel_apply.md R172). -/
theorem partialRounds_forward_succ {s : State} (hf : s.op.forward = true) (hr : s.rnd ≠ 2) (x : Word) :
    s.network.partialRounds s.op (s.rnd + 1) x =
      s.network.roundFwd (s.key s.rnd) (s.network.partialRounds s.op s.rnd x) := by
  simp only [Network.partialRounds, hf, if_true]
  generalize s.rnd = r at hr
  fin_cases r
  · rfl
  · rfl
  · exact absurd rfl hr

/-- One more backward round (42_feistel_apply.md R174). -/
theorem partialRounds_backward_succ {s : State} (hf : s.op.forward = false) (hr : s.rnd ≠ 0) (x : Word) :
    s.network.partialRounds s.op (s.rnd - 1) x =
      s.network.roundBwd (s.key s.rnd) (s.network.partialRounds s.op s.rnd x) := by
  simp only [Network.partialRounds, hf, Bool.false_eq_true, if_false]
  generalize s.rnd = r at hr
  fin_cases r
  · exact absurd rfl hr
  · rfl
  · rfl

theorem apply_of_forward {s : State} (hf : s.op.forward = true) (hr : s.rnd = 2) (x : Word) :
    s.network.apply s.op x =
      s.network.join (s.network.roundFwd (s.key s.rnd) (s.network.partialRounds s.op s.rnd x)) := by
  simp only [Network.apply, Network.partialRounds, hf, hr, if_true]
  rfl

theorem apply_of_backward {s : State} (hf : s.op.forward = false) (hr : s.rnd = 0) (x : Word) :
    s.network.apply s.op x =
      s.network.join (s.network.roundBwd (s.key s.rnd) (s.network.partialRounds s.op s.rnd x)) := by
  simp only [Network.apply, Network.partialRounds, hf, hr, Bool.false_eq_true, if_false]
  rfl

/-- The first round of an application reads the split value (42_feistel_apply.md R171). -/
theorem partialRounds_first (p : Network) (op : Opcode) (x : Word) :
    p.partialRounds op (if op.forward then 0 else 2) x = p.split x := by
  unfold Network.partialRounds
  cases op.forward <;> rfl

/-! ## The round value of the request's digest -/

theorem Opcode.backward_of_applies {op : Opcode} (h : op.applies) (hf : op.forward = false) : op.backward = true := by
  rcases h with rfl | rfl | rfl | rfl
  · cases hf
  · rfl
  · cases hf
  · rfl

/-- The round value of a backward round is `F` of the left half and the round's key (41_round_function.md R153, R160). -/
theorem reduce_request_of_backward {s : State} (hf : s.op.forward = false) (hback : s.op.backward = true) :
    reduce (digestOf s.request) &&& s.rmask = roundF (s.wl.setWidth 64) (s.key s.rnd) s.rmask := by
  rw [State.request, State.hashOperand, if_neg (by simp [hf]), if_pos hback, roundF]

theorem forwardRound_halves {s : State} (hf : s.op.forward = true) :
    (s.wr, s.wl ^^^ (reduce (digestOf s.request) &&& s.rmask).setWidth 32) =
      s.network.roundFwd (s.key s.rnd) (s.wl, s.wr) := by
  rw [reduce_request_of_forward hf]
  rfl

theorem backwardRound_halves {s : State} (hf : s.op.forward = false) (hback : s.op.backward = true) :
    (s.wr ^^^ (reduce (digestOf s.request) &&& s.rmask).setWidth 32, s.wl) =
      s.network.roundBwd (s.key s.rnd) (s.wl, s.wr) := by
  rw [reduce_request_of_backward hf hback]
  rfl

/-! ## Before and after an application -/

theorem Opcode.single_of_applies {op : Opcode} (h : op.applies) (hfold : ¬ op.folds) : op.single = true := by
  rcases h with rfl | rfl | rfl | rfl
  · rfl
  · rfl
  · exact absurd (.inl rfl) hfold
  · exact absurd (.inr rfl) hfold

/-- `WC` applications of `INDEX` are done, the value is in `U`, and the next one is to follow (43_cycle_walk.md R203, R205). -/
structure BetweenApplications (s : State) : Prop where
  value : s.u = (s.network.apply s.op)^[s.wc.toNat] s.index
  missed : s.op.folds → Misses (s.network.apply s.op) s.n s.index s.wc.toNat
  below_cap : s.op.folds → s.wlimit ≠ 0 → s.wc < s.wlimit
  single_start : s.op.single = true → s.wc = 0

theorem zero_lt_of_ne_zero {x : Word} (h : x ≠ 0) : 0 < x :=
  BitVec.lt_def.mpr (Nat.pos_of_ne_zero fun h0 => h (BitVec.eq_of_toNat_eq h0))

/-- Every walk lands within 4 applications, so at most 3 are done when another is to follow (43_cycle_walk.md R212). -/
theorem BetweenApplications.wc_lt_four {s : State} (hb : BetweenApplications s) (ha : Applying s) (ht : TripleOfN s) :
    s.wc.toNat < 4 := by
  by_cases hfold : s.op.folds
  · obtain ⟨k, y, ⟨hk, rfl, hland, -⟩, hfour, -⟩ := exists_walksTo_apply ht.wellFormed s.op ht.n_le (ha.in_range hfold)
    by_contra hmany
    exact BitVec.not_lt.mpr (hb.missed hfold k hk (by omega)) hland
  · rw [hb.single_start (Opcode.single_of_applies ha.op hfold)]
    decide

section
variable {t : State} (he : EngineInv t)
include he

/-- The invariant says nothing more of a machine that runs no application. -/
theorem WalkInv.of_not_applies (hop : t.ph ≠ .idle → ¬ t.op.applies) : WalkInv t := by
  have hfold : ∀ {P : Prop}, t.ph ≠ .idle → t.op.folds → P := fun hph h => absurd (Opcode.applies_of_folds h) (hop hph)
  have happlies : ∀ {P : Prop}, t.ph ≠ .idle → t.op.applies → P := fun hph h => absurd h (hop hph)
  have hcheck : ∀ {P : Prop}, t.ph = .check → P := fun h =>
    happlies (by simp [h]) (he.application_op (.inr h))
  have hround : ∀ {P : Prop}, t.ph = .setup ∨ t.ph = .hreq ∨ t.ph = .hwait → t.op.single = true → P := fun h hs =>
    happlies (by rcases h with h | h | h <;> simp [h]) ((t.op.single_iff.mp hs).elim .inl fun h => .inr (.inl h))
  have hne : t.ph = .setup ∨ t.ph = .hreq ∨ t.ph = .hwait → t.ph ≠ .idle := by rintro (h | h | h) <;> simp [h]
  exact ⟨he, fun h => happlies (by rcases h with h | h | h | h <;> simp [h]), fun h => happlies (hne (.inr h)),
    fun h => hfold (hne h), hcheck, hcheck, fun h => hfold (hne h), hcheck, hround, hcheck⟩

theorem WalkInv.of_between (hb : BetweenApplications t) (hph : t.ph ≠ .check)
    (hrounds : t.ph = .hreq ∨ t.ph = .hwait → (t.wl, t.wr) = t.network.partialRounds t.op t.rnd t.u) : WalkInv t :=
  ⟨he, fun _ _ => hb.value, fun h _ => hrounds h, fun _ => hb.missed, fun h => absurd h hph, fun h => absurd h hph,
    fun _ => hb.below_cap, fun h => absurd h hph, fun _ => hb.single_start, fun h => absurd h hph⟩

end

section
variable {s : State} (hi : WalkInv s)
include hi

theorem WalkInv.between (hph : s.ph = .setup ∨ s.ph = .hreq ∨ s.ph = .hwait) (hop : s.op.applies) :
    BetweenApplications s :=
  ⟨hi.value (by rcases hph with h | h | h <;> simp [h, Phase.inApplication]) hop, hi.missed hph, hi.below_cap hph,
    hi.single_start hph⟩

/-- The last round of an application: `recombine` counts it and leaves its value (42_feistel_apply.md R175, R178). -/
theorem WalkInv.recombine {l r : Half} (hph : s.ph = .hwait) (hop : s.op ≠ .roundf)
    (happly : s.network.join (l, r) = s.network.apply s.op s.u)
    (he : EngineInv (Machine.recombine { s with wl := l, wr := r, hp := .empty })) :
    WalkInv (Machine.recombine { s with wl := l, wr := r, hp := .empty }) := by
  have happ : s.ph.inApplication := .inr (.inr (.inl hph))
  have ha : Applying s := hi.engine.applying happ hop
  have hb : BetweenApplications s := hi.between (.inr (.inr hph)) ha.op
  have hwc : s.wc.toNat < 4 := hb.wc_lt_four ha (hi.engine.triple happ)
  have hcount : (s.wc + 1).toNat = s.wc.toNat + 1 := by
    rw [BitVec.toNat_add, show (1 : Word).toNat = 1 from rfl]
    exact Nat.mod_eq_of_lt (by omega)
  have hu : s.network.join (l, r) = (s.network.apply s.op)^[(s.wc + 1).toNat] s.index := by
    rw [happly, hcount, Function.iterate_succ_apply', ← hb.value]
  refine ⟨he, fun _ _ => hu, nofun, nofun, fun _ hfold => ?_, fun _ => ?_, nofun, fun _ hfold hcap => ?_, nofun,
    fun _ hsingle => ?_⟩
  · rw [recombine_wc, hcount, Nat.add_sub_cancel]
    exact hb.missed hfold
  · rw [recombine_wc, hcount]
    omega
  · rw [BitVec.le_def, recombine_wc, hcount]
    exact BitVec.lt_def.mp (hb.below_cap hfold hcap)
  · rw [recombine_wc, hb.single_start hsingle]
    rfl

/-- In phase `CHECK` a value outside `[0, N)` makes the last application a miss too (43_cycle_walk.md R205). -/
theorem WalkInv.misses_of_check (hph : s.ph = .check) (hfold : s.op.folds) (hmiss : s.n ≤ s.u) :
    Misses (s.network.apply s.op) s.n s.index s.wc.toNat := by
  intro j h1 hj
  rcases Nat.lt_or_eq_of_le hj with hlt | rfl
  · exact hi.missed_before hph hfold j h1 (Nat.le_sub_one_of_lt hlt)
  · exact hi.value (.inr (.inr (.inr hph))) (Opcode.applies_of_folds hfold) ▸ hmiss

theorem WalkInv.frame (ie rej : Bool) (inputs : List Event) (turn : Nat) (resp : Option BusResponse) :
    WalkInv
      { s with
        ie := ie, status := { s.status with rej := rej }, inputs := inputs, turn := turn, resp := resp } :=
  ⟨hi.engine.frame .., hi.value, hi.rounds, hi.missed, hi.missed_before, hi.counted, hi.below_cap, hi.within_cap,
    hi.single_start, hi.single_end⟩

theorem WalkInv.advance : WalkInv s.advance := by
  rw [advance_eq]
  exact hi.frame ..

/-! ## Steps -/

theorem AcceptEffect.walkInv {w : Word} {t : State} (h : AcceptEffect w s t) : WalkInv t := by
  have he : EngineInv t := h.engineInv hi.engine
  cases h with
  | drop => exact hi.frame s.ie true s.inputs s.turn s.resp
  | nop => exact hi
  | clear hb => exact .of_not_applies he fun hph => absurd (hi.engine.idle_of_not_busy hb) hph
  | error e => exact .of_not_applies he (absurd rfl)
  | precompute => exact .of_not_applies he fun _ => Opcode.not_applies_precompute
  | apply op =>
    have hb : BetweenApplications (s.startFromIndex op) :=
      ⟨rfl, fun _ j h1 h0 => absurd (show 1 ≤ 0 from h1.trans h0) (by decide), fun _ hcap => zero_lt_of_ne_zero hcap,
        fun _ => rfl⟩
    exact .of_between he hb nofun nofun
  | roundf => exact .of_not_applies he fun _ => Opcode.not_applies_roundf

theorem WalkInv.respond (r : BusResponse) : WalkInv (s.respond r) :=
  hi.frame s.ie s.status.rej s.inputs s.turn (some r)

theorem HostEffect.walkInv {tr : BusTransaction} {t : State} (h : HostEffect tr s t) : WalkInv t := by
  have he : EngineInv t := h.engineInv hi.engine
  cases h with
  | respond r => exact hi.respond r
  | cfg => exact hi.frame _ s.status.rej s.inputs s.turn (some writeOk)
  | drop => exact hi.frame s.ie true s.inputs s.turn (some writeOk)
  | accept t _ _ ha => exact ha.walkInv (hi.respond writeOk)
  | n hb | index hb | key0 hb | key1 hb | key2 hb | wlimit hb =>
    exact .of_not_applies he fun hph => absurd (hi.engine.idle_of_not_busy hb) hph

theorem EngineEffect.walkInv {t : State} (h : EngineEffect s t) : WalkInv t := by
  have he : EngineInv t := h.engineInv hi.engine
  cases h with
  | stay => exact hi
  | precompute | roundf | land | cap => exact .of_not_applies he (absurd rfl)
  | setup hph =>
    have hb : BetweenApplications s := hi.between (.inl hph) (hi.engine.application_op (.inl hph))
    exact .of_between he ⟨hb.value, hb.missed, hb.below_cap, hb.single_start⟩ nofun
      fun _ => (partialRounds_first s.network s.op s.u).symm
  | request hph =>
    by_cases hop : s.op = .roundf
    · exact .of_not_applies he fun _ => hop ▸ Opcode.not_applies_roundf
    · have ha : Applying s := hi.engine.applying (.inr (.inl hph)) hop
      have hb : BetweenApplications s := hi.between (.inr (.inl hph)) ha.op
      exact .of_between he ⟨hb.value, hb.missed, hb.below_cap, hb.single_start⟩ nofun
        fun _ => hi.rounds (.inl hph) ha.op
  | forward d hph hhp hop hf hr =>
    obtain rfl := hi.engine.digest_eq hph hhp
    have ha : Applying s := hi.engine.applying (.inr (.inr (.inl hph))) hop
    have hb : BetweenApplications s := hi.between (.inr (.inr hph)) ha.op
    refine .of_between he ⟨hb.value, hb.missed, hb.below_cap, hb.single_start⟩ nofun fun _ => ?_
    exact (forwardRound_halves hf).trans
      ((hi.rounds (.inr hph) ha.op).symm ▸ (partialRounds_forward_succ hf hr s.u).symm)
  | backward d hph hhp hop hf hr =>
    obtain rfl := hi.engine.digest_eq hph hhp
    have ha : Applying s := hi.engine.applying (.inr (.inr (.inl hph))) hop
    have hb : BetweenApplications s := hi.between (.inr (.inr hph)) ha.op
    refine .of_between he ⟨hb.value, hb.missed, hb.below_cap, hb.single_start⟩ nofun fun _ => ?_
    exact (backwardRound_halves hf (Opcode.backward_of_applies ha.op hf)).trans
      ((hi.rounds (.inr hph) ha.op).symm ▸ (partialRounds_backward_succ hf hr s.u).symm)
  | forwardLast d hph hhp hop hf hr =>
    obtain rfl := hi.engine.digest_eq hph hhp
    have ha : Applying s := hi.engine.applying (.inr (.inr (.inl hph))) hop
    refine hi.recombine hph hop ?_ he
    rw [forwardRound_halves hf, hi.rounds (.inr hph) ha.op, apply_of_forward hf hr]
  | backwardLast d hph hhp hop hf hr =>
    obtain rfl := hi.engine.digest_eq hph hhp
    have ha : Applying s := hi.engine.applying (.inr (.inr (.inl hph))) hop
    refine hi.recombine hph hop ?_ he
    rw [backwardRound_halves hf (Opcode.backward_of_applies ha.op hf), hi.rounds (.inr hph) ha.op,
      apply_of_backward hf hr]
  | again hph hsingle hmiss hroom =>
    have ha : Applying s := hi.engine.applying_of_setup_or_check (.inr hph)
    have hb : BetweenApplications { s with ph := .setup } :=
      ⟨hi.value (.inr (.inr (.inr hph))) ha.op, fun hfold => hi.misses_of_check hph hfold hmiss,
        fun _ hcap => hroom.resolve_left hcap, fun h => absurd h (by simp [hsingle])⟩
    exact .of_between he hb nofun nofun

theorem StepEffect.walkInv {e : Event} {t : State} (h : StepEffect s e t) : WalkInv t := by
  have he : EngineInv t := h.engineInv hi.engine
  cases h with
  | host tr t ht => exact ht.walkInv hi
  | engine b t ht => exact ht.walkInv hi
  | hash m hm =>
    exact ⟨he, hi.value, hi.rounds, hi.missed, hi.missed_before, hi.counted, hi.below_cap, hi.within_cap,
      hi.single_start, hi.single_end⟩
  | hashStay => exact hi
  | reset => exact .of_not_applies he (absurd rfl)

end

/-! ## The obligation -/

/-- Settles O41: taking the event off keeps the invariant, and so does everything that an agent's step can do. -/
theorem walkInvKept : Obligations.WalkInvKept := fun _ _ hi h => (step_effect h).walkInv hi.advance

end Sys2Proof.Machine
end

section
/-! PROOF. The steps that end a running command, and what the walk's invariant makes of their result (42_feistel_apply.md R178;
43_cycle_walk.md R203 to R205); then O42. -/

namespace Sys2Proof.Machine

/-- The engine's step that ends a command (40_precompute.md R121; 41_round_function.md R157; 43_cycle_walk.md R203). -/
inductive Ending (s : State) : State → Prop
  | precompute : s.ph = .pre → Ending s (precomputeStep s)
  | roundf (d : Digest) : s.ph = .hwait → s.hp = .ready d → s.op = .roundf →
      Ending s (finishRoundf (reduce d &&& s.rmask) s)
  | land : s.ph = .check → s.op.single = true ∨ s.u < s.n →
      Ending s (State.finish { s with result := s.u, wcount := s.wc })
  | cap : s.ph = .check → s.op.single = false → s.n ≤ s.u → s.wlimit ≠ 0 → s.wlimit ≤ s.wc →
      Ending s (State.raise .walkLimit { s with wcount := s.wc })

theorem HostEffect.busy_of_busy {tr : BusTransaction} {s t : State} (h : HostEffect tr s t) (hb : s.status.busy = true) :
    t.status.busy = true := by
  rcases h.busy_cases hb with ⟨r, rfl⟩ | ⟨b, rfl⟩ | rfl <;> exact hb

/-- Apart from reset only the engine ends a command. -/
theorem StepEffect.ending {s t : State} {e : Event} (h : StepEffect s e t) (hb : s.status.busy = true)
    (hend : t.status.busy = false) (hreset : e ≠ .reset) : Ending s t := by
  have hstays : ¬ t.status.busy = true := by simp [hend]
  cases h with
  | host tr t ht => exact absurd (ht.busy_of_busy hb) hstays
  | hash | hashStay => exact absurd hb hstays
  | reset => exact absurd rfl hreset
  | engine b t ht =>
    cases ht with
    | precompute hph => exact .precompute hph
    | roundf d hph hhp hop => exact .roundf d hph hhp hop
    | land hph hland => exact .land hph hland
    | cap hph hs hmiss hcap hused => exact .cap hph hs hmiss hcap hused
    | _ => exact absurd hb hstays

/-! ## Results -/

/-- The result and the count that a command's end leaves, by its opcode. -/
structure RightResult (s t : State) : Prop where
  precompute : s.op = .precompute →
    TripleOfN t ∧ t.status.preValid = true ∧ t.result = s.result ∧ t.wcount = s.wcount
  encode : s.op = .encode → t.result = s.network.encode s.index ∧ t.wcount = 1
  decode : s.op = .decode → t.result = s.network.decode s.index ∧ t.wcount = 1
  permute : s.op = .permute → WalksTo s.network.encode s.n s.index t.wcount.toNat t.result
  invert : s.op = .invert → WalksTo s.network.decode s.n s.index t.wcount.toNat t.result
  roundf : s.op = .roundf → t.result = roundF (s.index &&& s.rmask) (s.key s.rnd) s.rmask ∧ t.wcount = s.wcount

theorem apply_of_encode {s : State} (hop : s.op = .encode) : s.network.apply s.op = s.network.encode := by
  rw [hop]
  rfl

theorem apply_of_decode {s : State} (hop : s.op = .decode) : s.network.apply s.op = s.network.decode := by
  rw [hop]
  rfl

theorem apply_of_permute {s : State} (hop : s.op = .permute) : s.network.apply s.op = s.network.encode := by
  rw [hop]
  rfl

theorem apply_of_invert {s : State} (hop : s.op = .invert) : s.network.apply s.op = s.network.decode := by
  rw [hop]
  rfl

/-- The request of ROUNDF hashes `INDEX & RMASK` with the selected key (41_round_function.md R153, R157). -/
theorem reduce_request_of_roundf {s : State} (hop : s.op = .roundf) :
    reduce (digestOf s.request) &&& s.rmask = roundF (s.index &&& s.rmask) (s.key s.rnd) s.rmask := by
  simp only [State.request, State.hashOperand, hop, Opcode.forward, Opcode.backward, roundF, Bool.false_eq_true, if_false]

section
variable {s : State} (hi : WalkInv s)
include hi

theorem WalkInv.apply_of_single_check (hph : s.ph = .check) (hop : s.op.single = true) :
    s.u = s.network.apply s.op s.index ∧ s.wc = 1 := by
  have hwc : s.wc = 1 := hi.single_end hph hop
  have hvalue := hi.value (.inr (.inr (.inr hph))) (hi.engine.application_op (.inr hph))
  rw [hwc] at hvalue
  exact ⟨hvalue, hwc⟩

theorem WalkInv.walksTo_of_land (hph : s.ph = .check) (hfold : s.op.folds) (hland : s.u < s.n) :
    WalksTo (s.network.apply s.op) s.n s.index s.wc.toNat s.u :=
  ⟨hi.counted hph, (hi.value (.inr (.inr (.inr hph))) (Opcode.applies_of_folds hfold)).symm, hland,
    fun j h1 hj => hi.missed_before hph hfold j h1 (Nat.le_sub_one_of_lt hj)⟩

/-- 43_cycle_walk.md R203: a value that ends a command with success is the result of its opcode. -/
theorem WalkInv.rightResult_of_land (hph : s.ph = .check) (hland : s.op.single = true ∨ s.u < s.n) :
    RightResult s (State.finish { s with result := s.u, wcount := s.wc }) := by
  have hop : s.op.applies := hi.engine.application_op (.inr hph)
  have hwalk : s.op.folds → WalksTo (s.network.apply s.op) s.n s.index s.wc.toNat s.u := fun hfold => by
    refine hi.walksTo_of_land hph hfold (hland.resolve_left ?_)
    rcases hfold with h | h <;> simp [h, Opcode.single]
  constructor
  case precompute => exact fun h => absurd hop (h ▸ Opcode.not_applies_precompute)
  case roundf => exact fun h => absurd hop (h ▸ Opcode.not_applies_roundf)
  case encode => exact fun h => apply_of_encode h ▸ hi.apply_of_single_check hph (by simp [h, Opcode.single])
  case decode => exact fun h => apply_of_decode h ▸ hi.apply_of_single_check hph (by simp [h, Opcode.single])
  case permute => exact fun h => apply_of_permute h ▸ hwalk (.inl h)
  case invert => exact fun h => apply_of_invert h ▸ hwalk (.inr h)

theorem WalkInv.rightResult_of_precompute (hph : s.ph = .pre) : RightResult s (precomputeStep s) := by
  obtain ⟨hop, -⟩ := hi.engine.pre_op hph
  constructor
  case precompute => exact fun _ => ⟨tripleOfN_precomputeStep s, rfl, rfl, rfl⟩
  all_goals simp [hop]

theorem WalkInv.rightResult_of_roundf {d : Digest} (hph : s.ph = .hwait) (hhp : s.hp = .ready d) (hop : s.op = .roundf) :
    RightResult s (finishRoundf (reduce d &&& s.rmask) s) := by
  obtain rfl := hi.engine.digest_eq hph hhp
  constructor
  case roundf => exact fun _ => ⟨reduce_request_of_roundf hop, rfl⟩
  all_goals simp [hop]

/-- 43_cycle_walk.md R205: a walk at its cap has missed as often as the cap says. -/
theorem WalkInv.cap_reached (hph : s.ph = .check) (hs : s.op.single = false) (hmiss : s.n ≤ s.u) (hcap : s.wlimit ≠ 0)
    (hused : s.wlimit ≤ s.wc) :
    s.op.folds ∧ s.wc = s.wlimit ∧ Misses (s.network.apply s.op) s.n s.index s.wlimit.toNat := by
  have hfold : s.op.folds := by
    by_contra h
    simp [Opcode.single_of_applies (hi.engine.application_op (.inr hph)) h] at hs
  have hwc : s.wc = s.wlimit := BitVec.le_antisymm (hi.within_cap hph hfold hcap) hused
  exact ⟨hfold, hwc, hwc ▸ hi.misses_of_check hph hfold hmiss⟩

/-- What the end of a command leaves, with success and at the cap. -/
theorem Ending.right {t : State} (h : Ending s t) :
    (t.status.done = true ∧ t.status.err = false ∧ RightResult s t) ∨
    (t.status.done = false ∧ t.status.err = true ∧ t.status.errCode = 6 ∧ t.result = s.result ∧ s.wlimit ≠ 0 ∧
      t.wcount = s.wlimit ∧ s.op.folds ∧ Misses (s.network.apply s.op) s.n s.index s.wlimit.toNat) := by
  have herr : ∀ {ph}, s.ph = ph → ph ≠ .idle → s.status.err = false := fun hph hne => by
    obtain ⟨-, he⟩ := hi.engine.status.busy_quiet (hi.engine.busy_of_ph hph hne)
    exact he
  cases h with
  | precompute hph => exact .inl ⟨rfl, herr hph (by decide), hi.rightResult_of_precompute hph⟩
  | roundf d hph hhp hop => exact .inl ⟨rfl, herr hph (by decide), hi.rightResult_of_roundf hph hhp hop⟩
  | land hph hland => exact .inl ⟨rfl, herr hph (by decide), hi.rightResult_of_land hph hland⟩
  | cap hph hs hmiss hcap hused =>
    obtain ⟨hfold, hwc, hmisses⟩ := hi.cap_reached hph hs hmiss hcap hused
    exact .inr ⟨rfl, rfl, rfl, rfl, hcap, hwc, hfold, hmisses⟩

end

/-! ## The obligation -/

/-- Settles O42: a command that no reset ends is ended by the engine, and its result is that of the walk's invariant. -/
theorem finishedCommandIsRight : Obligations.FinishedCommandIsRight := by
  intro s t hi hb hstep hend hreset
  have hending : Ending s.advance t :=
    (step_effect hstep).ending ((congrArg Status.busy (advance_status s)).trans hb) hend hreset
  have hright := hending.right hi.advance
  rw [advance_eq] at hright
  rcases hright with ⟨hdone, herr, hp, he, hd, hpm, hin, hr⟩ | ⟨hdone, herr, hcode, hres, hcap, hwc, hfold, hmiss⟩
  · exact .inl ⟨hdone, herr, hp, he, hd, hpm, hin, hr⟩
  · refine .inr ⟨hdone, herr, hcode, hres, hcap, hwc, ?_⟩
    rcases hfold with hop | hop
    · exact .inl ⟨hop, apply_of_permute hop ▸ hmiss⟩
    · exact .inr ⟨hop, apply_of_invert hop ▸ hmiss⟩

end Sys2Proof.Machine
end

section
/-! PROOF. A step is the next event's, a command word's step is its command, and no step fails; the accept of each computing
command while idle, by the outcome of its checks (00_scope.md R10; 44_control.md R230 to R234); then O5, O6, O7 and O10 to O14. -/

namespace Sys2Proof.Machine

/-! ## The step of a command word -/

theorem nextEvent_of_fetchWord {s : State} {w : Word} (h : s.fetchWord = some w) :
    s.nextEvent = .host (cmdWrite w) := by
  unfold State.fetchWord at h
  split at h
  case h_1 tr htr =>
    split at h
    case isTrue hcmd =>
      obtain ⟨hwe, hoff⟩ := hcmd
      rw [htr, eq_cmdWrite hwe hoff, Option.some.inj h]
    case isFalse => cases h
  all_goals cases h

/-- The host's step that writes `CMD` is the accept of the word, after the response (44_control.md R230). -/
theorem perform_cmdWrite (w : Word) (s : State) :
    perform (.host (cmdWrite w)) s = acceptWord w (s.respond writeOk) :=
  perform_write_offset .cmd w s

theorem acceptWord_of_decode {w : Word} {i : Instr} (h : decode w = .command i) (s : State) :
    acceptWord w s = exec i s := by
  simp only [acceptWord, h]

/-- What taking the next event off does to the model's own fields (log 1). -/
theorem advance_respond_eq (s : State) (r : BusResponse) :
    s.advance.respond r =
      { s with
        inputs := s.inputs.tail
        turn := if s.inputs = [] then s.turn + 1 else s.turn
        resp := some r } := by
  unfold State.advance State.respond
  cases h : s.inputs <;> simp

/-! ## Every step is a next state -/

theorem exec_total (i : Instr) (s : State) : ∃ t, exec i s = .next t := by
  cases i with
  | roundf ksel =>
    simp only [exec, execRoundf]
    cases keyIndex? ksel <;> exact ⟨_, rfl⟩
  | _ => exact ⟨_, rfl⟩

theorem acceptWord_total (w : Word) (s : State) : ∃ t, acceptWord w s = .next t := by
  unfold acceptWord
  cases decode w with
  | command i => exact exec_total i s
  | illegal => exact ⟨_, rfl⟩

theorem writeReg_total (r : Reg) (v : Word) (s : State) : ∃ t, writeReg r v s = .next t := by
  cases r with
  | cmd => exact acceptWord_total v s
  | _ => exact ⟨_, rfl⟩

theorem hostStep_total (tr : BusTransaction) (s : State) : ∃ t, hostStep tr s = .next t := by
  unfold hostStep busWrite
  cases tr.we
  · exact ⟨_, rfl⟩
  · cases regAt tr.off with
    | none => exact ⟨_, rfl⟩
    | some r => exact writeReg_total r _ _

theorem perform_total (e : Event) (s : State) : ∃ t, perform e s = .next t := by
  cases e with
  | host tr => exact hostStep_total tr s
  | _ => exact ⟨_, rfl⟩

/-! ## The accept of a computing command while idle -/

section
variable {s : State} (hb : s.status.busy = false) (he : s.status.err = false)
include hb he

theorem exec_precompute_idle : exec .precompute s = .next (beginPrecompute s) :=
  congrArg _ (acceptUnlessErr_idle _ s hb he)

theorem exec_encode_idle : exec .encode s = .next (beginApplication .encode s) :=
  congrArg _ (acceptUnlessErr_idle _ s hb he)

theorem exec_decode_idle : exec .decode s = .next (beginApplication .decode s) :=
  congrArg _ (acceptUnlessErr_idle _ s hb he)

theorem exec_permute_idle : exec .permute s = .next (beginWalk .permute s) :=
  congrArg _ (acceptUnlessErr_idle _ s hb he)

theorem exec_invert_idle : exec .invert s = .next (beginWalk .invert s) :=
  congrArg _ (acceptUnlessErr_idle _ s hb he)

theorem exec_roundf_idle {ksel : BitVec 2} {k : Fin 3} (hk : keyIndex? ksel = some k) :
    exec (.roundf ksel) s = .next (beginRoundf k s) := by
  simp only [exec, execRoundf, hk, acceptUnlessErr_idle _ s hb he]

end

/-- 30_encoding.md R91: the key selects 0, 1 and 2 select the keys of these numbers. -/
theorem keyIndex?_ofNat : ∀ k : Fin 3, keyIndex? (BitVec.ofNat 2 k.val) = some k := by decide

theorem keyIndex?_isSome {ksel : BitVec 2} (h : ksel.toNat ≤ 2) : ∃ k, keyIndex? ksel = some k :=
  ⟨_, dif_pos (Nat.lt_succ_of_le h)⟩

/-! ## The outcomes of the checks -/

section
variable {s : State}

theorem allKeys_iff (f : Status) : f.allKeys = true ↔ f.kv0 = true ∧ f.kv1 = true ∧ f.kv2 = true := by
  simp [Status.allKeys, and_assoc]

theorem allKeys_eq_false_iff (f : Status) : f.allKeys = false ↔ f.kv0 = false ∨ f.kv1 = false ∨ f.kv2 = false := by
  simp only [Status.allKeys, Bool.and_eq_false_iff, or_assoc]

theorem beginApplication_notPrecomputed (op : Opcode) (hp : s.status.preValid = false) :
    beginApplication op s = s.raise .notPrecomputed := by
  simp [beginApplication, hp]

theorem beginApplication_keysMissing (op : Opcode) (hp : s.status.preValid = true) (hk : s.status.allKeys = false) :
    beginApplication op s = s.raise .keysMissing := by
  simp [beginApplication, hp, hk]

theorem beginApplication_starts (op : Opcode) (hp : s.status.preValid = true) (hk : s.status.allKeys = true) :
    beginApplication op s = s.startFromIndex op := by
  simp [beginApplication, hp, hk]

theorem beginWalk_notPrecomputed (op : Opcode) (hp : s.status.preValid = false) :
    beginWalk op s = s.raise .notPrecomputed := by
  simp [beginWalk, hp]

theorem beginWalk_keysMissing (op : Opcode) (hp : s.status.preValid = true) (hk : s.status.allKeys = false) :
    beginWalk op s = s.raise .keysMissing := by
  simp [beginWalk, hp, hk]

theorem beginWalk_indexRange (op : Opcode) (hp : s.status.preValid = true) (hk : s.status.allKeys = true)
    (hn : s.n.toNat ≤ s.index.toNat) : beginWalk op s = s.raise .indexRange := by
  simp [beginWalk, hp, hk, BitVec.le_def.mpr hn]

theorem beginWalk_starts (op : Opcode) (hp : s.status.preValid = true) (hk : s.status.allKeys = true)
    (hn : s.index.toNat < s.n.toNat) : beginWalk op s = s.startFromIndex op := by
  have hn' : ¬ s.n ≤ s.index := BitVec.not_le.mpr (BitVec.lt_def.mpr hn)
  simp [beginWalk, hp, hk, hn']

theorem beginRoundf_notPrecomputed (k : Fin 3) (hp : s.status.preValid = false) :
    beginRoundf k s = s.raise .notPrecomputed := by
  simp [beginRoundf, hp]

theorem beginRoundf_keysMissing (k : Fin 3) (hp : s.status.preValid = true) (hk : s.status.keyValid k = false) :
    beginRoundf k s = s.raise .keysMissing := by
  simp [beginRoundf, hp, hk]

theorem beginRoundf_starts (k : Fin 3) (hp : s.status.preValid = true) (hk : s.status.keyValid k = true) :
    beginRoundf k s = { s.start .roundf .hreq with rnd := k } := by
  simp [beginRoundf, hp, hk]

end

/-- A missing key that ROUNDF selects, by its key select (41_round_function.md R157). -/
theorem keyIndex?_of_missing {f : Status} {ksel : BitVec 2}
    (h : (ksel = 0 ∧ f.kv0 = false) ∨ (ksel = 1 ∧ f.kv1 = false) ∨ (ksel = 2 ∧ f.kv2 = false)) :
    ∃ k, keyIndex? ksel = some k ∧ f.keyValid k = false := by
  rcases h with ⟨rfl, hk⟩ | ⟨rfl, hk⟩ | ⟨rfl, hk⟩
  · exact ⟨0, rfl, hk⟩
  · exact ⟨1, rfl, hk⟩
  · exact ⟨2, rfl, hk⟩

/-! ## The obligations -/

/-- Settles O5: the event is the write of `CMD`, whose step is the accept of a word that decodes to the command. -/
theorem stepRunsDecodedCommand : Obligations.StepRunsDecodedCommand := by
  intro s w i hfetch hi
  refine ⟨wellFormed_of_decode hi, ?_⟩
  rw [step, nextEvent_of_fetchWord hfetch, perform_cmdWrite, acceptWord_of_decode hi, advance_respond_eq]
  rfl

/-- Settles O6: the first of the coming events is the next one, and `withFetchWord` puts the write of `CMD` there. -/
theorem stepTakesNextEvent : Obligations.StepTakesNextEvent := by
  refine ⟨fun s e es => step_withInputs s e es, fun s w => ?_⟩
  have hword : BitVec.ofNat 64 (w.toNat % 2 ^ 64) = w := by rw [Nat.mod_eq_of_lt w.isLt, BitVec.ofNat_toNat, BitVec.setWidth_eq]
  have hstate : s.withFetchWord 64 w.toNat = s.withInputs (.host (cmdWrite w) :: s.inputs) := by
    rw [State.withFetchWord, hword, State.withInputs]
  rw [hstate, step_withInputs, perform_cmdWrite]
  rfl

/-- Settles O7: each agent's step is a next state, the accept of every word among them. -/
theorem everyStepHasNextState : Obligations.EveryStepHasNextState := fun s => perform_total s.nextEvent s.advance

/-- Settles O10: the one check of PRECOMPUTE is that `N` is not 0. -/
theorem precomputeStartsUnlessZero : Obligations.PrecomputeStartsUnlessZero := by
  refine ⟨fun s hb he hn => ?_, fun s hb he hn => ?_⟩
  · rw [exec_precompute_idle hb he, beginPrecompute, if_neg hn]
    rfl
  · rw [exec_precompute_idle hb he, beginPrecompute, if_pos hn]
    rfl

/-- Settles O11: the checks of ENCODE and DECODE are of the triple and the keys. -/
theorem encodeAndDecodeStart : Obligations.EncodeAndDecodeStart := by
  intro s hb he hp h0 h1 h2
  have hk : s.status.allKeys = true := (allKeys_iff _).mpr ⟨h0, h1, h2⟩
  rw [exec_encode_idle hb he, exec_decode_idle hb he, beginApplication_starts _ hp hk, beginApplication_starts _ hp hk]
  exact ⟨rfl, rfl⟩

/-- Settles O12: the checks of PERMUTE and INVERT are of the triple, the keys and the range of `INDEX`. -/
theorem permuteAndInvertStart : Obligations.PermuteAndInvertStart := by
  intro s hb he hp h0 h1 h2 hn
  have hk : s.status.allKeys = true := (allKeys_iff _).mpr ⟨h0, h1, h2⟩
  rw [exec_permute_idle hb he, exec_invert_idle hb he, beginWalk_starts _ hp hk hn, beginWalk_starts _ hp hk hn]
  exact ⟨rfl, rfl⟩

/-- Settles O13: the checks of ROUNDF are of the triple and of its own key. -/
theorem roundfStarts : Obligations.RoundfStarts := by
  intro s k hb he hp h0 h1 h2
  have hk : s.status.keyValid k = true := by
    fin_cases k
    exacts [h0 rfl, h1 rfl, h2 rfl]
  rw [exec_roundf_idle hb he (keyIndex?_ofNat k), beginRoundf_starts k hp hk]
  rfl

/-- Settles O14: each command by the first of its checks that fails. -/
theorem acceptErrorsInOrder : Obligations.AcceptErrorsInOrder := by
  intro s hb he
  refine ⟨fun hp i hi => ?_, fun hp => ⟨fun hk i hi => ?_, fun ksel hk => ?_, fun h0 h1 h2 hn i hi => ?_⟩⟩
  · rcases hi with rfl | rfl | rfl | rfl | ⟨ksel, hksel, rfl⟩
    · exact (exec_encode_idle hb he).trans (congrArg _ (beginApplication_notPrecomputed _ hp))
    · exact (exec_decode_idle hb he).trans (congrArg _ (beginApplication_notPrecomputed _ hp))
    · exact (exec_permute_idle hb he).trans (congrArg _ (beginWalk_notPrecomputed _ hp))
    · exact (exec_invert_idle hb he).trans (congrArg _ (beginWalk_notPrecomputed _ hp))
    · obtain ⟨k, hk⟩ := keyIndex?_isSome hksel
      exact (exec_roundf_idle hb he hk).trans (congrArg _ (beginRoundf_notPrecomputed k hp))
  · have hk' : s.status.allKeys = false := (allKeys_eq_false_iff _).mpr hk
    rcases hi with rfl | rfl | rfl | rfl
    · exact (exec_encode_idle hb he).trans (congrArg _ (beginApplication_keysMissing _ hp hk'))
    · exact (exec_decode_idle hb he).trans (congrArg _ (beginApplication_keysMissing _ hp hk'))
    · exact (exec_permute_idle hb he).trans (congrArg _ (beginWalk_keysMissing _ hp hk'))
    · exact (exec_invert_idle hb he).trans (congrArg _ (beginWalk_keysMissing _ hp hk'))
  · obtain ⟨k, hksel, hk'⟩ := keyIndex?_of_missing hk
    exact (exec_roundf_idle hb he hksel).trans (congrArg _ (beginRoundf_keysMissing k hp hk'))
  · have hk : s.status.allKeys = true := (allKeys_iff _).mpr ⟨h0, h1, h2⟩
    rcases hi with rfl | rfl
    · exact (exec_permute_idle hb he).trans (congrArg _ (beginWalk_indexRange _ hp hk hn))
    · exact (exec_invert_idle hb he).trans (congrArg _ (beginWalk_indexRange _ hp hk hn))

end Sys2Proof.Machine
end

section
/-! PROOF. The engine's turn at the hash port, the completion of a backward round and of ROUNDF, and where the engine has a step at
all (41_round_function.md R153 to R157; 42_feistel_apply.md R174; 44_control.md R240); then O31, O33, O34 and O36. -/

namespace Sys2Proof.Machine

/-! ## Requests -/

theorem perform_engine_hreq (hreqReady : Bool) {s : State} (hph : s.ph = .hreq) :
    perform (.engine hreqReady) s = .next (requestStep hreqReady s) := by
  simp only [perform, engineStep, hph]

/-- The engine's step that transfers the request (41_round_function.md R153). -/
theorem perform_engine_transfer {s : State} (hv : s.hreqValid = true) :
    perform (.engine true) s =
      .next { s with hp := .pending s.request, ph := .hwait, sent := s.request :: s.sent } := by
  obtain ⟨hph, hhp⟩ := hreqValid_iff.mp hv
  simp only [perform_engine_hreq true hph, requestStep, hhp]

theorem requestStep_waits {s : State} {hreqReady : Bool} (h : s.hp ≠ .empty ∨ hreqReady = false) :
    requestStep hreqReady s = s := by
  rcases requestStep_cases hreqReady s with ⟨hhp, hr, -⟩ | ⟨-, e⟩
  · simp [hhp, hr] at h
  · exact e

theorem Opcode.backward_iff (op : Opcode) : op.backward = true ↔ op = .decode ∨ op = .invert := by
  cases op <;> decide

/-- The message of a request by the names of the opcodes and of the keys (41_round_function.md R153). -/
theorem request_eq (s : State) :
    s.request = msg
      (if s.op = .encode ∨ s.op = .permute then s.wr.setWidth 64
       else if s.op = .decode ∨ s.op = .invert then s.wl.setWidth 64
       else s.index &&& s.rmask)
      (if s.rnd = 0 then s.key0 else if s.rnd = 1 then s.key1 else s.key2) := by
  have hkey : s.key s.rnd = (if s.rnd = 0 then s.key0 else if s.rnd = 1 then s.key1 else s.key2) := by
    generalize s.rnd = k
    fin_cases k <;> rfl
  simp only [State.request, State.hashOperand, hkey, s.op.forward_iff, s.op.backward_iff]

/-! ## The messages sent -/

theorem AcceptEffect.sent_eq {w : Word} {s t : State} (h : AcceptEffect w s t) : t.sent = s.sent := by
  cases h <;> rfl

theorem HostEffect.sent_eq {tr : BusTransaction} {s t : State} (h : HostEffect tr s t) : t.sent = s.sent := by
  cases h with
  | accept t _ _ ha => exact ha.sent_eq
  | _ => rfl

/-- The engine sends in phase `HREQ` only. -/
theorem EngineEffect.sent_eq {s t : State} (h : EngineEffect s t) (hph : s.ph ≠ .hreq) : t.sent = s.sent := by
  cases h with
  | request hreq => exact absurd hreq hph
  | _ => rfl

/-- 41_round_function.md R153: without `hreq_valid` and `hreq_ready` no message is transferred. -/
theorem sent_eq_of_no_transfer {e : Event} {s t : State} (h : perform e s = .next t)
    (hno : ¬(s.hreqValid = true ∧ e = .engine true)) : t.sent = s.sent := by
  have heff := perform_effect h
  cases heff with
  | host tr t ht => exact ht.sent_eq
  | hash | hashStay | reset => rfl
  | engine b t ht =>
    by_cases hph : s.ph = .hreq
    · have hwaits : s.hp ≠ .empty ∨ b = false := by
        by_contra hgo
        obtain ⟨hhp, hb⟩ := not_or.mp hgo
        exact hno ⟨hreqValid_iff.mpr ⟨hph, not_not.mp hhp⟩, by rw [Bool.eq_true_of_not_eq_false hb]⟩
      rw [perform_engine_hreq b hph, requestStep_waits hwaits] at h
      cases h
      rfl
    · exact ht.sent_eq hph

/-! ## The collaborator -/

theorem perform_hashResponse_pending {s : State} {m : Msg} (h : s.hp = .pending m) :
    perform .hashResponse s = .next { s with hp := .ready (digestOf m) } := by
  simp only [perform, hashStep, h]

theorem perform_hashResponse_stray {s : State} (h : ∀ m, s.hp ≠ .pending m) : perform .hashResponse s = .next s := by
  rcases hashStep_cases s with ⟨m, hm, -⟩ | ⟨-, e⟩
  · exact absurd hm (h m)
  · rw [perform, e]

/-! ## Completions -/

theorem completeRound_of_backward (r : Word) {s : State} (hb : s.op.backward = true) :
    completeRound r s = backwardRound (r &&& s.rmask) s := by
  rcases s.op.backward_iff.mp hb with hop | hop
  all_goals
    rcases completeRound_cases r s with ⟨h, -⟩ | ⟨-, h, -⟩ | ⟨-, -, e⟩
    · simp [hop] at h
    · simp [hop, Opcode.forward] at h
    · exact e

theorem backwardRound_of_rnd_ne_zero (f : Word) {s : State} (hr : s.rnd ≠ 0) :
    backwardRound f s =
      { s with wl := s.wr ^^^ f.setWidth 32, wr := s.wl, hp := .empty, rnd := s.rnd - 1, ph := .hreq } := by
  rcases backwardRound_cases f s with ⟨h0, _⟩ | ⟨_, h⟩
  · exact absurd h0 hr
  · exact h

theorem backwardRound_of_rnd_eq_zero (f : Word) {s : State} (hr : s.rnd = 0) :
    backwardRound f s = recombine { s with wl := s.wr ^^^ f.setWidth 32, wr := s.wl, hp := .empty } := by
  rcases backwardRound_cases f s with ⟨_, h⟩ | ⟨h0, _⟩
  · exact h
  · exact absurd hr h0

theorem completeRound_of_roundf (r : Word) {s : State} (hop : s.op = .roundf) :
    completeRound r s = finishRoundf (r &&& s.rmask) s := by
  rw [completeRound, if_pos hop]

/-! ## The scheduling table -/

/-- 44_control.md R240: the states in which the engine has a step. -/
theorem engineEnabled_iff (hreqReady : Bool) (s : State) :
    engineEnabled hreqReady s = true ↔
      s.ph = .pre ∨ s.ph = .setup ∨ (s.ph = .hreq ∧ s.hp = .empty ∧ hreqReady = true) ∨
        (s.ph = .hwait ∧ ∃ d, s.hp = .ready d) ∨ s.ph = .check := by
  unfold engineEnabled
  cases s.ph <;> cases s.hp <;> simp

theorem forwardRound_ph_ne (f : Word) (s : State) : (forwardRound f s).ph ≠ .hwait := by
  rcases forwardRound_cases f s with ⟨-, e⟩ | ⟨-, e⟩ <;> rw [e] <;> nofun

theorem backwardRound_ph_ne (f : Word) (s : State) : (backwardRound f s).ph ≠ .hwait := by
  rcases backwardRound_cases f s with ⟨-, e⟩ | ⟨-, e⟩ <;> rw [e] <;> nofun

theorem completeRound_ph_ne (r : Word) (s : State) : (completeRound r s).ph ≠ .hwait := by
  rcases completeRound_cases r s with ⟨-, e⟩ | ⟨-, -, e⟩ | ⟨-, -, e⟩ <;> rw [e]
  · nofun
  · exact forwardRound_ph_ne _ s
  · exact backwardRound_ph_ne _ s

theorem checkStep_ph_ne (s : State) : (checkStep s).ph ≠ .check := by
  rcases checkStep_cases s with ⟨-, e⟩ | ⟨-, -, -, -, e⟩ | ⟨-, -, -, e⟩ <;> rw [e] <;> nofun

/-- Every step of the engine goes on to another phase. -/
theorem engineStep_ph_ne {hreqReady : Bool} {s : State} (h : engineEnabled hreqReady s = true) :
    (engineStep hreqReady s).ph ≠ s.ph := by
  rcases (engineEnabled_iff hreqReady s).mp h with hph | hph | ⟨hph, hhp, rfl⟩ | ⟨hph, d, hhp⟩ | hph <;>
    simp only [engineStep, hph]
  · nofun
  · nofun
  · simp [requestStep, hhp]
  · simp only [responseStep, hhp]
    exact completeRound_ph_ne (reduce d) s
  · exact checkStep_ph_ne s

/-! ## The obligations -/

/-- Settles O31: the engine's step in phase `HREQ` and the collaborator's, each by the state of the port. -/
theorem hashRequestAndResponse : Obligations.HashRequestAndResponse := by
  refine ⟨fun s b hph => ⟨?_, fun h => ?_⟩, fun e s t h => ⟨hreqValid_iff, ⟨fun hne => ?_, ?_⟩, ?_⟩,
    fun s m hm => ⟨digestOf_length m, perform_hashResponse_pending hm⟩,
    fun s hs => perform_hashResponse_stray (by simp [hs]), fun s d hs => perform_hashResponse_stray (by simp [hs])⟩
  · rintro hhp rfl m rfl
    rw [perform_engine_transfer (hreqValid_iff.mpr ⟨hph, hhp⟩), request_eq]
  · rw [perform_engine_hreq b hph, requestStep_waits h]
  · exact not_not.mp fun hno => hne (sent_eq_of_no_transfer h hno)
  · rintro ⟨hv, rfl⟩
    cases (perform_engine_transfer hv).symm.trans h
    exact List.cons_ne_self _ _
  · rintro hv rfl
    cases (perform_engine_transfer hv).symm.trans h
    exact ⟨s.request, rfl, rfl, msgWires_lane s.request⟩

/-- Settles O33: the engine's turn is a backward round with the masked digest, and the round with key 0 ends in `recombine`. -/
theorem backwardRoundCompletes : Obligations.BackwardRoundCompletes := by
  refine ⟨?_, roundBwd_roundFwd⟩
  rintro s d hreqReady hph hhp hop f rfl
  rw [perform_engine_response hreqReady hph hhp, completeRound_of_backward _ (s.op.backward_iff.mpr hop)]
  refine ⟨fun hr => ?_, fun hr => ?_⟩
  · rw [backwardRound_of_rnd_ne_zero _ hr]
  · rw [backwardRound_of_rnd_eq_zero _ hr]
    rfl

/-- Settles O34: the engine's turn with ROUNDF is `finishRoundf` with the masked digest. -/
theorem roundfCompletes : Obligations.RoundfCompletes := by
  intro s d hreqReady hph hhp hop
  rw [perform_engine_response hreqReady hph hhp, completeRound_of_roundf _ hop]
  rfl

/-- Settles O36: where the engine has a step it changes the phase, and elsewhere nothing. -/
theorem engineSchedulingTable : Obligations.EngineSchedulingTable := by
  intro s b
  rw [← engineEnabled_iff]
  refine ⟨fun hne => ?_, fun hen heq => ?_⟩
  · by_contra hno
    exact hne (congrArg _ (engineStep_of_not_enabled (Bool.eq_false_of_not_eq_true hno)))
  · have hstay : engineStep b s = s := Host.Outcome.next.inj heq
    exact engineStep_ph_ne hen (congrArg State.ph hstay)

end Sys2Proof.Machine
end

section
/-! PROOF. Reset, and the host's statements as single transactions (70_reset_and_hazards.md R290; 30_encoding.md R98, R99); then O37,
O38 and O60. -/

namespace Sys2Proof.Machine

/-! ## Reset -/

theorem statusInv_reset : StatusInv State.reset :=
  ⟨by decide, by decide, by decide, fun _ => rfl, by decide, nofun⟩

theorem engineInv_reset : EngineInv State.reset := .of_idle statusInv_reset rfl rfl

theorem walkInv_reset : WalkInv State.reset := .of_not_applies engineInv_reset (absurd rfl)

theorem readReg_reset {r : Reg} (h : r ≠ .id) : readReg r State.reset = 0 := by
  cases r with
  | id => exact absurd rfl h
  | _ => decide

/-! ## Host statements -/

/-- The host's turn is the step of its statement's transaction (30_encoding.md R98). -/
theorem hostTurn_eq {st : HostStmt} {s t : State} (rest : List HostStmt)
    (h : perform (.host st.transaction) { s with resp := none } = .next t) :
    hostTurn (st :: rest) s = .next (if st.completed t.resp then rest else st :: rest, t) := by
  have hstep : step { s with inputs := .host st.transaction :: s.inputs } = .next t := h
  simp only [hostTurn, hstep]

/-- Every statement but `wait` completes with its one transaction (30_encoding.md R98, R99). -/
theorem completed_of_ne_wait {st : HostStmt} (h : st ≠ .wait) (resp : Option BusResponse) : st.completed resp = true := by
  cases st with
  | wait => exact absurd rfl h
  | _ => rfl

/-- `wait` goes on while the bit read as `BUSY` is 1 (30_encoding.md R99). -/
theorem completed_wait (f : Status) : HostStmt.completed .wait (some { rdata := f.word, err := false }) = !f.busy := by
  obtain ⟨hbusy, -⟩ := statusWord_fields f
  simp only [HostStmt.completed, Option.any_some, hbusy]

/-! ## The obligations -/

/-- Settles O37: a reset leaves of the state the model's own fields only. -/
theorem resetSetsEveryRegister : Obligations.ResetSetsEveryRegister := by
  refine ⟨fun s => ⟨s.hardReset, rfl, ?_⟩, fun r hr => readReg_reset hr, rfl, ?_⟩
  · refine ⟨(by decide : Status.reset.word = 0), (by decide : State.reset.cfgWord = 0), ?_⟩
    and_intros <;> rfl
  · and_intros <;> rfl

/-- Settles O38: the reset state is idle, with no request out and the triple not valid. -/
theorem invariantsHoldAtReset : Obligations.InvariantsHoldAtReset := ⟨statusInv_reset, engineInv_reset, walkInv_reset⟩

/-- Settles O60: a statement's turn is its transaction, and the response decides whether a `wait` goes on. -/
theorem hostStatementsRun : Obligations.HostStatementsRun := by
  refine ⟨fun rest s => ?_, fun rest s st hst => ?_⟩
  · have hread : perform (.host HostStmt.wait.transaction) { s with resp := none } =
        .next (s.respond { rdata := s.status.word, err := false }) := rfl
    rw [hostTurn_eq rest hread, respond_resp, completed_wait]
    cases s.status.busy <;> rfl
  · obtain ⟨t, ht⟩ := perform_total (.host st.transaction) { s with resp := none }
    refine ⟨t, ?_, ?_⟩
    · rw [hostTurn_eq rest ht, completed_of_ne_wait hst, if_pos rfl]
    · cases st <;> exact ht

end Sys2Proof.Machine
end

section
/-! PROOF. The commands that were accepted to run, and the run of a round, of an application, of ROUNDF and of PRECOMPUTE with no
waiting (42_feistel_apply.md R171 to R178; 41_round_function.md R157; 70_reset_and_hazards.md R300); then O48 and O49. -/

namespace Sys2Proof.Machine

/-! ## Commands accepted to run -/

section
variable {s t : State} (hb : s.status.busy = false) (hrun : t.status.busy = true)
include hb hrun

theorem started_of_acceptUnlessErr {act : State → State} (h : acceptUnlessErr act s = t) :
    s.status.err = false ∧ act s = t := by
  rcases acceptUnlessErr_cases act s with ⟨h1, -⟩ | ⟨-, -, e⟩ | ⟨-, he, e⟩
  · simp [hb] at h1
  · rw [← h, e, reject_busy, hb] at hrun
    cases hrun
  · exact ⟨he, e.symm.trans h⟩

theorem started_of_application {op : Opcode} (h : acceptUnlessErr (beginApplication op) s = t) :
    s.status.err = false ∧ t = s.startFromIndex op := by
  obtain ⟨he, rfl⟩ := started_of_acceptUnlessErr hb hrun h
  rcases beginApplication_cases op s with ⟨_, e⟩ | ⟨_, _, e⟩ | ⟨_, _, e⟩ <;> rw [e] at hrun ⊢
  · cases hrun
  · cases hrun
  · exact ⟨he, rfl⟩

theorem started_of_walk {op : Opcode} (h : acceptUnlessErr (beginWalk op) s = t) :
    s.status.err = false ∧ t = s.startFromIndex op := by
  obtain ⟨he, rfl⟩ := started_of_acceptUnlessErr hb hrun h
  rcases beginWalk_cases op s with ⟨_, e⟩ | ⟨_, _, e⟩ | ⟨_, _, _, e⟩ | ⟨_, _, _, e⟩ <;> rw [e] at hrun ⊢
  · cases hrun
  · cases hrun
  · cases hrun
  · exact ⟨he, rfl⟩

theorem started_of_roundf {k : Fin 3} (h : acceptUnlessErr (beginRoundf k) s = t) :
    s.status.err = false ∧ t = { s.start .roundf .hreq with rnd := k } := by
  obtain ⟨he, rfl⟩ := started_of_acceptUnlessErr hb hrun h
  rcases beginRoundf_cases k s with ⟨_, e⟩ | ⟨_, _, e⟩ | ⟨_, _, e⟩ <;> rw [e] at hrun ⊢
  · cases hrun
  · cases hrun
  · exact ⟨he, rfl⟩

theorem started_of_precompute (h : acceptUnlessErr beginPrecompute s = t) :
    s.status.err = false ∧ t = s.start .precompute .pre := by
  obtain ⟨he, rfl⟩ := started_of_acceptUnlessErr hb hrun h
  rcases beginPrecompute_cases s with ⟨_, e⟩ | ⟨_, e⟩ <;> rw [e] at hrun ⊢
  · cases hrun
  · exact ⟨he, rfl⟩

end

/-! ## The run of a round -/

/-- The state in which the first of the coming events takes place, with `es` the others (log 1, 7). -/
def State.during (s : State) (es : List Event) : State := { s.withInputs es with resp := none }

theorem run_of_perform {s t : State} {e : Event} {es : List Event} (h : perform e (s.during es) = .next t) (k : Nat) :
    Sys2Proof.core.run (k + 1) (s.withInputs (e :: es)) = Sys2Proof.core.run k t :=
  run_succ_of_step ((step_withInputs s e es).trans h) k

/-- After the split of an application (42_feistel_apply.md R171). -/
def State.afterSplit (s : State) : State := { setupStep s with resp := none }

theorem run_setup {s : State} (hph : s.ph = .setup) (b : Bool) (es : List Event) (k : Nat) :
    Sys2Proof.core.run (k + 1) (s.withInputs (.engine b :: es)) =
      Sys2Proof.core.run k (s.afterSplit.withInputs es) :=
  run_of_perform (perform_engine_setup (s := s.during es) b hph) k

/-- The events of one round with no waiting, before the events `es` (70_reset_and_hazards.md R300). -/
def roundEvents (es : List Event) : List Event := .engine true :: .hashResponse :: .engine true :: es

/-- The state in which the request of a round is out (41_round_function.md R153). -/
def State.requested (s : State) : State :=
  { s with hp := .pending s.request, ph := .hwait, sent := s.request :: s.sent, resp := none }

/-- The state in which the request of a round has been answered (41_round_function.md R152, R153). -/
def State.answered (s : State) : State :=
  { s with hp := .ready (digestOf s.request), ph := .hwait, sent := s.request :: s.sent, resp := none }

/-- The request, the response and the completion of a round. -/
theorem run_round {s : State} (hv : s.hreqValid = true) (es : List Event) (k : Nat) :
    Sys2Proof.core.run (k + 3) (s.withInputs (roundEvents es)) =
      Sys2Proof.core.run k (completeRound (reduce (digestOf s.request)) (s.answered.withInputs es)) := by
  have hrequest : Sys2Proof.core.run (k + 3) (s.withInputs (roundEvents es)) =
      Sys2Proof.core.run (k + 2) (s.requested.withInputs (.hashResponse :: .engine true :: es)) :=
    run_of_perform (perform_engine_transfer (s := s.during (.hashResponse :: .engine true :: es)) hv) (k + 2)
  have hanswer : Sys2Proof.core.run (k + 2) (s.requested.withInputs (.hashResponse :: .engine true :: es)) =
      Sys2Proof.core.run (k + 1) (s.answered.withInputs (.engine true :: es)) :=
    run_of_perform (perform_hashResponse_pending (s := s.requested.during (.engine true :: es)) rfl) (k + 1)
  exact hrequest.trans
    (hanswer.trans (run_of_perform (perform_engine_response (s := s.answered.during es) true rfl rfl) k))

/-- What a round leaves beside its phase: the halves, an empty port and the message sent. -/
def State.roundDone (s : State) (lr : Half × Half) : State :=
  { s with wl := lr.1, wr := lr.2, hp := .empty, sent := msg 0 (s.key s.rnd) :: s.sent, resp := none }

/-- After a forward round with key 0 or 1 (42_feistel_apply.md R172). -/
def State.afterForward (s : State) : State :=
  { s.roundDone (s.network.roundFwd (s.key s.rnd) (s.wl, s.wr)) with rnd := s.rnd + 1, ph := .hreq }

/-- After a backward round with key 2 or 1 (42_feistel_apply.md R174). -/
def State.afterBackward (s : State) : State :=
  { s.roundDone (s.network.roundBwd (s.key s.rnd) (s.wl, s.wr)) with rnd := s.rnd - 1, ph := .hreq }

theorem request_eq_msg (s : State) : s.request = msg 0 (s.key s.rnd) := msg_eq_msg _ 0 _

section
variable {s : State} (hv : s.hreqValid = true) (es : List Event) (k : Nat)
include hv

theorem run_forward_next (hf : s.op.forward = true) (hr : s.rnd ≠ 2) :
    Sys2Proof.core.run (k + 3) (s.withInputs (roundEvents es)) =
      Sys2Proof.core.run k
        (s.afterForward.withInputs es) := by
  have hf' : (s.answered.withInputs es).op.forward = true := hf
  have hr' : (s.answered.withInputs es).rnd ≠ 2 := hr
  rw [run_round hv, completeRound_of_forward _ hf', forwardRound_of_rnd_ne_two _ hr', State.afterForward,
    State.roundDone, ← forwardRound_halves hf, ← request_eq_msg]
  rfl

theorem run_forward_last (hf : s.op.forward = true) (hr : s.rnd = 2) :
    Sys2Proof.core.run (k + 3) (s.withInputs (roundEvents es)) =
      Sys2Proof.core.run k
        ((recombine (s.roundDone (s.network.roundFwd (s.key s.rnd) (s.wl, s.wr)))).withInputs es) := by
  have hf' : (s.answered.withInputs es).op.forward = true := hf
  have hr' : (s.answered.withInputs es).rnd = 2 := hr
  rw [run_round hv, completeRound_of_forward _ hf', forwardRound_of_rnd_eq_two _ hr',     State.roundDone, ← forwardRound_halves hf, ← request_eq_msg]
  rfl

theorem run_backward_next (hf : s.op.forward = false) (hback : s.op.backward = true) (hr : s.rnd ≠ 0) :
    Sys2Proof.core.run (k + 3) (s.withInputs (roundEvents es)) =
      Sys2Proof.core.run k
        (s.afterBackward.withInputs es) := by
  have hb' : (s.answered.withInputs es).op.backward = true := hback
  have hr' : (s.answered.withInputs es).rnd ≠ 0 := hr
  rw [run_round hv, completeRound_of_backward _ hb', backwardRound_of_rnd_ne_zero _ hr', State.afterBackward,
    State.roundDone, ← backwardRound_halves hf hback, ← request_eq_msg]
  rfl

theorem run_backward_last (hf : s.op.forward = false) (hback : s.op.backward = true) (hr : s.rnd = 0) :
    Sys2Proof.core.run (k + 3) (s.withInputs (roundEvents es)) =
      Sys2Proof.core.run k
        ((recombine (s.roundDone (s.network.roundBwd (s.key s.rnd) (s.wl, s.wr)))).withInputs es) := by
  have hb' : (s.answered.withInputs es).op.backward = true := hback
  have hr' : (s.answered.withInputs es).rnd = 0 := hr
  rw [run_round hv, completeRound_of_backward _ hb', backwardRound_of_rnd_eq_zero _ hr', ← backwardRound_halves hf hback,
    State.roundDone, ← request_eq_msg]
  rfl

end

/-! ## The run of an application -/

theorem checkStep_of_single {s : State} (hop : s.op.single = true) :
    checkStep s = State.finish { s with result := s.u, wcount := s.wc } := if_pos hop

theorem run_check_single {s : State} (hph : s.ph = .check) (hop : s.op.single = true) :
    Sys2Proof.core.run 1 (s.withInputs [.engine true]) =
      Host.Outcome.next (State.finish { s.during [] with result := s.u, wcount := s.wc }) :=
  (run_of_perform (perform_engine_check (s := s.during []) true hph) 0).trans
    (congrArg _ (checkStep_of_single (s := s.during []) hop))

/-- The messages of an application in the order of the log, newest first (42_feistel_apply.md R172, R174). -/
def State.applicationMessages (s : State) (op : Opcode) : List Msg :=
  if op = .encode then [msg 0 s.key2, msg 0 s.key1, msg 0 s.key0] else [msg 0 s.key0, msg 0 s.key1, msg 0 s.key2]

/-- The halves after the three forward rounds (42_feistel_apply.md R178). -/
def Network.forwardRounds (p : Network) (x : Word) : Half × Half :=
  p.roundFwd p.key2 (p.roundFwd p.key1 (p.roundFwd p.key0 (p.split x)))

theorem join_forwardRounds (p : Network) (x : Word) : p.join (p.forwardRounds x) = p.encode x := rfl

/-- The halves after the three backward rounds (42_feistel_apply.md R178). -/
def Network.backwardRounds (p : Network) (x : Word) : Half × Half :=
  p.roundBwd p.key0 (p.roundBwd p.key1 (p.roundBwd p.key2 (p.split x)))

theorem join_backwardRounds (p : Network) (x : Word) : p.join (p.backwardRounds x) = p.decode x := rfl

/-- The state in which a single application of `INDEX` with the halves `lr` at its end has ended its command. -/
def State.applied (s : State) (op : Opcode) (lr : Half × Half) (rnd : Fin 3) : State :=
  State.finish
    { s with
      op := op, u := s.network.join lr, wc := 1, result := s.network.join lr, wcount := 1
      wl := lr.1, wr := lr.2, rnd := rnd, hp := .empty, sent := s.applicationMessages op ++ s.sent, inputs := [], resp := none }

theorem run_encode {s : State} (hhp : s.hp = .empty) :
    Sys2Proof.core.run 11 ((s.startFromIndex .encode).withInputs applicationEvents) =
      Host.Outcome.next (s.applied .encode (s.network.forwardRounds s.index) 2) := by
  let split := (s.startFromIndex .encode).afterSplit
  exact (run_setup rfl true _ 10).trans <|
    (run_forward_next (s := split) (hreqValid_iff.mpr ⟨rfl, hhp⟩) _ 7 rfl nofun).trans <|
    (run_forward_next (s := split.afterForward) (hreqValid_iff.mpr ⟨rfl, rfl⟩) _ 4 rfl nofun).trans <|
    (run_forward_last (s := split.afterForward.afterForward) (hreqValid_iff.mpr ⟨rfl, rfl⟩) _ 1 rfl rfl).trans <|
    run_check_single rfl rfl

theorem run_decode {s : State} (hhp : s.hp = .empty) :
    Sys2Proof.core.run 11 ((s.startFromIndex .decode).withInputs applicationEvents) =
      Host.Outcome.next (s.applied .decode (s.network.backwardRounds s.index) 0) := by
  let split := (s.startFromIndex .decode).afterSplit
  have hcount : (2 - 1 - 1 : Fin 3) = 0 := rfl
  have hlast : split.afterBackward.afterBackward.rnd = 2 - 1 - 1 := rfl
  rw [← hcount]
  exact (run_setup rfl true _ 10).trans <|
    (run_backward_next (s := split) (hreqValid_iff.mpr ⟨rfl, hhp⟩) _ 7 rfl rfl nofun).trans <|
    (run_backward_next (s := split.afterBackward) (hreqValid_iff.mpr ⟨rfl, rfl⟩) _ 4 rfl rfl nofun).trans <|
    (run_backward_last (s := split.afterBackward.afterBackward) (hreqValid_iff.mpr ⟨rfl, rfl⟩) _ 1 rfl rfl
      (hlast.trans hcount)).trans <|
    run_check_single rfl rfl

/-! ## The obligations -/

/-- A command is accepted while `ERR = 0` and its end leaves `ERR` as it is. -/
theorem status_done_of_no_err {f : Status} (he : f.err = false) :
    { f with busy := false, done := true } = { f with done := true, err := false, busy := false } := by
  rw [← he]

/-- Settles O48: the split, three rounds and the decision, in the direction of the opcode. -/
theorem applicationRunsToEnd : Obligations.ApplicationRunsToEnd := by
  rintro s t op hb hhp (⟨rfl, h⟩ | ⟨rfl, h⟩) hrun
  · obtain ⟨he, rfl⟩ := started_of_application hb hrun (Host.Outcome.next.inj h)
    refine ⟨_, run_encode hhp, join_forwardRounds _ _, rfl, rfl, rfl, status_done_of_no_err he, rfl, ?_⟩
    and_intros <;> rfl
  · obtain ⟨he, rfl⟩ := started_of_application hb hrun (Host.Outcome.next.inj h)
    refine ⟨_, run_decode hhp, join_backwardRounds _ _, rfl, rfl, rfl, status_done_of_no_err he, rfl, ?_⟩
    and_intros <;> rfl

theorem exec_roundf {ksel : BitVec 2} {k : Fin 3} (hk : keyIndex? ksel = some k) (s : State) :
    exec (.roundf ksel) s = .next (acceptUnlessErr (beginRoundf k) s) := by
  simp only [exec, execRoundf, hk]

/-- Settles O49: one round ends ROUNDF, and one step ends PRECOMPUTE. -/
theorem roundfAndPrecomputeRunToEnd : Obligations.RoundfAndPrecomputeRunToEnd := by
  refine ⟨fun s t k hb hhp h hrun => ?_, fun s t hb h hrun => ?_⟩
  · obtain ⟨he, rfl⟩ := started_of_roundf hb hrun
      (Host.Outcome.next.inj ((exec_roundf (keyIndex?_ofNat k) s).symm.trans h))
    let t : State := { s.start .roundf .hreq with rnd := k }
    have hv : t.hreqValid = true := hreqValid_iff.mpr ⟨rfl, hhp⟩
    exact ⟨_, (run_round hv [] 0).trans (congrArg _ (completeRound_of_roundf _ rfl)),
      reduce_request_of_roundf (s := t) rfl, rfl, rfl, status_done_of_no_err he, rfl, rfl⟩
  · obtain ⟨he, rfl⟩ := started_of_precompute hb hrun (Host.Outcome.next.inj h)
    let t : State := (s.start .precompute .pre).during []
    have hstatus : { s.status with busy := false, done := true, preValid := true } =
        { s.status with done := true, err := false, busy := false, preValid := true } := by rw [← he]
    exact ⟨precomputeStep t, run_of_perform (perform_engine_pre (s := t) true rfl) 0, tripleOfN_precomputeStep t, rfl, rfl,
      rfl, rfl, hstatus, rfl, rfl⟩

end Sys2Proof.Machine
end

section
/-! PROOF. How far a running command has come, as the number of enabled engine steps, of responses and of requests behind it
(70_reset_and_hazards.md R300): each step of an agent adds its own to the count and nothing else, or it is the engine's step that
ends the command; and the counts of a running command are bounded, since every walk lands within 4 applications (43_cycle_walk.md
R212). -/

namespace Sys2Proof.Machine

/-! ## The counts -/

/-- The applications that have ended, by the opcode and `WC`; ROUNDF has none. -/
def Opcode.applicationsDone (op : Opcode) (wc : Word) : Nat := if op = .roundf then 0 else wc.toNat

/-- The rounds of the present application that have ended, by the opcode and `RND`; ROUNDF has none. -/
def Opcode.roundsDone (op : Opcode) (rnd : Fin 3) : Nat :=
  if op = .roundf then 0 else if op.forward then rnd.val else 2 - rnd.val

/-- The enabled engine steps behind a running command: 8 for each application, 2 for each round of the present one. -/
def State.engineWork (s : State) : Nat :=
  match s.ph with
  | .idle => 0
  | .pre => 0
  | .setup => 8 * s.op.applicationsDone s.wc
  | .hreq => 8 * s.op.applicationsDone s.wc + 2 * s.op.roundsDone s.rnd + 1
  | .hwait => 8 * s.op.applicationsDone s.wc + 2 * s.op.roundsDone s.rnd + 2
  | .check => 8 * s.op.applicationsDone s.wc - 1

/-- The responses behind a running command. -/
def State.hashWork (s : State) : Nat :=
  match s.ph with
  | .idle => 0
  | .pre => 0
  | .setup => 3 * s.op.applicationsDone s.wc
  | .hreq => 3 * s.op.applicationsDone s.wc + s.op.roundsDone s.rnd
  | .hwait => 3 * s.op.applicationsDone s.wc + s.op.roundsDone s.rnd + (if hashEnabled s then 0 else 1)
  | .check => 3 * s.op.applicationsDone s.wc

/-- The requests behind a running command. -/
def State.requestWork (s : State) : Nat :=
  match s.ph with
  | .idle => 0
  | .pre => 0
  | .setup => 3 * s.op.applicationsDone s.wc
  | .hreq => 3 * s.op.applicationsDone s.wc + s.op.roundsDone s.rnd
  | .hwait => 3 * s.op.applicationsDone s.wc + s.op.roundsDone s.rnd + 1
  | .check => 3 * s.op.applicationsDone s.wc

theorem Opcode.applicationsDone_of_applies {op : Opcode} (h : op.applies) (wc : Word) :
    op.applicationsDone wc = wc.toNat :=
  if_neg (Opcode.not_roundf_of_applies h)

/-- A count below 4 does not overflow. -/
theorem Opcode.applicationsDone_succ {op : Opcode} (hop : op ≠ .roundf) {wc : Word} (hwc : wc.toNat < 4) :
    op.applicationsDone (wc + 1) = op.applicationsDone wc + 1 := by
  rw [Opcode.applicationsDone, Opcode.applicationsDone, if_neg hop, if_neg hop, BitVec.toNat_add,
    show (1 : Word).toNat = 1 from rfl]
  exact Nat.mod_eq_of_lt (by omega)

theorem Opcode.roundsDone_le (op : Opcode) (rnd : Fin 3) : op.roundsDone rnd ≤ 2 := by
  unfold Opcode.roundsDone
  split
  · omega
  · split <;> omega

section
variable {op : Opcode} (hop : op ≠ .roundf)
include hop

/-- 42_feistel_apply.md R171. -/
theorem Opcode.roundsDone_first : op.roundsDone (if op.forward then 0 else 2) = 0 := by
  rw [Opcode.roundsDone, if_neg hop]
  cases op.forward <;> rfl

theorem Opcode.roundsDone_forward (hf : op.forward = true) (rnd : Fin 3) : op.roundsDone rnd = rnd.val := by
  rw [Opcode.roundsDone, if_neg hop, if_pos hf]

theorem Opcode.roundsDone_backward (hf : op.forward = false) (rnd : Fin 3) : op.roundsDone rnd = 2 - rnd.val := by
  rw [Opcode.roundsDone, if_neg hop, if_neg (by simp [hf])]

/-- 42_feistel_apply.md R172. -/
theorem Opcode.roundsDone_forward_next (hf : op.forward = true) {rnd : Fin 3} (hr : rnd ≠ 2) :
    op.roundsDone (rnd + 1) = op.roundsDone rnd + 1 := by
  rw [Opcode.roundsDone_forward hop hf, Opcode.roundsDone_forward hop hf]
  fin_cases rnd
  · rfl
  · rfl
  · exact absurd rfl hr

/-- 42_feistel_apply.md R174. -/
theorem Opcode.roundsDone_backward_next (hf : op.forward = false) {rnd : Fin 3} (hr : rnd ≠ 0) :
    op.roundsDone (rnd - 1) = op.roundsDone rnd + 1 := by
  rw [Opcode.roundsDone_backward hop hf, Opcode.roundsDone_backward hop hf]
  fin_cases rnd
  · exact absurd rfl hr
  · rfl
  · rfl

end

/-! ## The bounds -/

section
variable {s : State} (hi : WalkInv s)
include hi

theorem WalkInv.applicationsDone_lt_four (hph : s.ph = .setup ∨ s.ph = .hreq ∨ s.ph = .hwait) :
    s.op.applicationsDone s.wc < 4 := by
  have happ : s.ph.inApplication := by rcases hph with h | h | h <;> simp [h, Phase.inApplication]
  by_cases hop : s.op = .roundf
  · rw [Opcode.applicationsDone, if_pos hop]
    decide
  · have ha : Applying s := hi.engine.applying happ hop
    rw [Opcode.applicationsDone_of_applies ha.op]
    exact (hi.between hph ha.op).wc_lt_four ha (hi.engine.triple happ)

/-- In phase `CHECK` the last application is counted already, and the others were misses. -/
theorem WalkInv.applicationsDone_check (hph : s.ph = .check) :
    s.op.applicationsDone s.wc = s.wc.toNat ∧ 1 ≤ s.wc.toNat ∧ s.wc.toNat ≤ 4 := by
  have ha : Applying s := hi.engine.applying_of_setup_or_check (.inr hph)
  have ht : TripleOfN s := hi.engine.triple (.inr (.inr (.inr hph)))
  refine ⟨Opcode.applicationsDone_of_applies ha.op _, hi.counted hph, ?_⟩
  by_cases hfold : s.op.folds
  · obtain ⟨k, y, ⟨hk, rfl, hland, -⟩, hfour, -⟩ := exists_walksTo_apply ht.wellFormed s.op ht.n_le (ha.in_range hfold)
    by_contra hmany
    exact BitVec.not_lt.mpr (hi.missed_before hph hfold k hk (by omega)) hland
  · rw [hi.single_end hph (Opcode.single_of_applies ha.op hfold)]
    decide

/-- A running command has fewer than 32 enabled engine steps and at most 12 responses behind it. -/
theorem WalkInv.work_bounds : s.engineWork < 32 ∧ s.hashWork ≤ 12 := by
  have hr := s.op.roundsDone_le s.rnd
  unfold State.engineWork State.hashWork
  cases hph : s.ph with
  | idle | pre => simp
  | setup =>
    have := hi.applicationsDone_lt_four (.inl hph)
    dsimp only
    omega
  | hreq =>
    have := hi.applicationsDone_lt_four (.inr (.inl hph))
    dsimp only
    omega
  | hwait =>
    have := hi.applicationsDone_lt_four (.inr (.inr hph))
    dsimp only
    split <;> omega
  | check =>
    obtain ⟨he, h1, h4⟩ := hi.applicationsDone_check hph
    dsimp only
    omega

end

/-! ## The steps of a running command -/

/-- The step from `s` to `t` leaves what a running command works on and reports (44_control.md R235). -/
structure KeepsCommand (s t : State) : Prop where
  op : t.op = s.op
  n : t.n = s.n
  index : t.index = s.index
  network : t.network = s.network
  wlimit : t.wlimit = s.wlimit
  result : t.result = s.result
  raised : t.raised = s.raised
  status : t.status = { s.status with rej := t.status.rej }

theorem KeepsCommand.busy {s t : State} (h : KeepsCommand s t) : t.status.busy = s.status.busy := by
  rw [h.status]

/-- The command runs on from `s` to `t` by the event `e`, which adds its own step to the counts. -/
structure RunsOn (s : State) (e : Event) (t : State) : Prop where
  keeps : KeepsCommand s t
  engine : t.engineWork = s.engineWork + (if takesEngineStep s e then 1 else 0)
  hash : t.hashWork = s.hashWork + (if takesHashStep s e then 1 else 0)
  request : t.sent.length + s.requestWork = s.sent.length + t.requestWork
  waits : takesEngineStep s e = false → takesHashStep s e = false → t.ph = s.ph ∧ t.hp = s.hp

/-- What a step of an agent other than reset is for a running command: nothing of its work, the answer to its request, or the
engine's enabled step. -/
inductive RunningStep (s : State) (e : Event) : State → Prop
  | wait (ie rej : Bool) (resp : Option BusResponse) : takesEngineStep s e = false → takesHashStep s e = false →
      RunningStep s e { s with ie := ie, status := { s.status with rej := rej }, resp := resp }
  | answer (m : Msg) : takesEngineStep s e = false → takesHashStep s e = true → s.hp = .pending m →
      RunningStep s e { s with hp := .ready (digestOf m) }
  | engine (t : State) : takesEngineStep s e = true → takesHashStep s e = false → EngineEffect s t → t.ph ≠ s.ph →
      RunningStep s e t

theorem runningStep_of_perform {s t : State} {e : Event} (hb : s.status.busy = true) (he : e ≠ .reset)
    (h : perform e s = .next t) : RunningStep s e t := by
  cases e with
  | reset => exact absurd rfl he
  | host tr =>
    have heff : HostEffect tr s t := hostStep_effect h
    rcases heff.busy_cases hb with ⟨r, rfl⟩ | ⟨b, rfl⟩ | rfl
    · exact .wait s.ie s.status.rej (some r) rfl rfl
    · exact .wait b s.status.rej (some writeOk) rfl rfl
    · exact .wait s.ie true (some writeOk) rfl rfl
  | engine b =>
    cases h
    cases hen : engineEnabled b s
    · rw [engineStep_of_not_enabled hen]
      exact .wait s.ie s.status.rej s.resp hen rfl
    · exact .engine _ hen rfl (engineStep_effect b s) (engineStep_ph_ne hen)
  | hashResponse =>
    cases h
    rcases hashStep_cases s with ⟨m, hm, e⟩ | ⟨hm, e⟩ <;> rw [e]
    · exact .answer m rfl (hashEnabled_iff.mpr ⟨m, hm⟩) hm
    · refine .wait s.ie s.status.rej s.resp rfl (Bool.eq_false_of_not_eq_true fun hen => ?_)
      obtain ⟨m, hpending⟩ := hashEnabled_iff.mp hen
      exact hm m hpending

/-- The completion of a round that is not the last makes it one more. -/
theorem runsOn_round {s : State} {e : Event} {l r : Half} {next : Fin 3} (hph : s.ph = .hwait)
    (hready : hashEnabled s = false) (hengine : takesEngineStep s e = true) (hhash : takesHashStep s e = false)
    (hrounds : s.op.roundsDone next = s.op.roundsDone s.rnd + 1) :
    RunsOn s e { s with wl := l, wr := r, hp := .empty, rnd := next, ph := .hreq } := by
  constructor
  · exact ⟨rfl, rfl, rfl, rfl, rfl, rfl, rfl, rfl⟩
  · simp only [State.engineWork, hrounds, hph, hengine, if_true]
    omega
  · simp only [State.hashWork, hrounds, hph, hready, hhash, Bool.false_eq_true, if_false]
    omega
  · simp only [State.requestWork, hrounds, hph]
    omega
  · simp [hengine]

section
variable {s : State} (hi : WalkInv s)
include hi

/-- The last round of an application makes it one more. -/
theorem WalkInv.runsOn_recombine {e : Event} {l r : Half} (hph : s.ph = .hwait) (hready : hashEnabled s = false)
    (hop : s.op ≠ .roundf) (hrounds : s.op.roundsDone s.rnd = 2) (hengine : takesEngineStep s e = true)
    (hhash : takesHashStep s e = false) :
    RunsOn s e (Machine.recombine { s with wl := l, wr := r, hp := .empty }) := by
  have ha : Applying s := hi.engine.applying (.inr (.inr (.inl hph))) hop
  have hwc := (hi.between (.inr (.inr hph)) ha.op).wc_lt_four ha (hi.engine.triple (.inr (.inr (.inl hph))))
  have hdone := Opcode.applicationsDone_succ hop hwc
  constructor
  · exact ⟨rfl, rfl, rfl, rfl, rfl, rfl, rfl, rfl⟩
  · simp only [State.engineWork, recombine_ph, recombine_op, recombine_wc, hdone, hph, hrounds, hengine, if_true]
    omega
  · simp only [State.hashWork, recombine_ph, recombine_op, recombine_wc, hdone, hph, hrounds, hready, hhash, Bool.false_eq_true, if_false]
    omega
  · simp only [State.requestWork, recombine_ph, recombine_op, recombine_wc, recombine_sent, hdone, hph, hrounds]
    omega
  · simp [hengine]

/-- The engine's enabled step takes the command on, or ends it. -/
theorem EngineEffect.runsOn_or_ending {t : State} {e : Event} (h : EngineEffect s t) (hne : t.ph ≠ s.ph)
    (hengine : takesEngineStep s e = true) (hhash : takesHashStep s e = false) : RunsOn s e t ∨ Ending s t := by
  have hready : ∀ {d}, s.hp = .ready d → hashEnabled s = false := fun hd => by simp only [hashEnabled, hd]
  cases h with
  | stay => exact absurd rfl hne
  | precompute hph => exact .inr (.precompute hph)
  | roundf d hph hhp hop => exact .inr (.roundf d hph hhp hop)
  | land hph hland => exact .inr (.land hph hland)
  | cap hph hs hmiss hcap hused => exact .inr (.cap hph hs hmiss hcap hused)
  | setup hph =>
    have hop : s.op ≠ .roundf := Opcode.not_roundf_of_applies (hi.engine.application_op (.inl hph))
    have hfirst := Opcode.roundsDone_first hop
    refine .inl ⟨⟨rfl, rfl, rfl, rfl, rfl, rfl, rfl, rfl⟩, ?_, ?_, ?_, by simp [hengine]⟩
    · simp only [State.engineWork, setupStep_ph, setupStep_op, setupStep_wc, setupStep_rnd, hfirst, hph, hengine, if_true]
    · simp only [State.hashWork, setupStep_ph, setupStep_op, setupStep_wc, setupStep_rnd, hfirst, hph, hhash, Bool.false_eq_true, if_false]
    · simp only [State.requestWork, setupStep_ph, setupStep_op, setupStep_wc, setupStep_rnd, setupStep_sent, hfirst, hph]
      omega
  | request hph hhp =>
    refine .inl ⟨⟨rfl, rfl, rfl, rfl, rfl, rfl, rfl, rfl⟩, ?_, ?_, ?_, by simp [hengine]⟩
    · simp only [State.engineWork, hph, hengine, if_true]
    · simp only [State.hashWork, hph, hhash, Bool.false_eq_true, if_false]
      rfl
    · simp only [State.requestWork, hph, List.length_cons]
      omega
  | forward d hph hhp hop hf hr =>
    exact .inl (runsOn_round hph (hready hhp) hengine hhash (Opcode.roundsDone_forward_next hop hf hr))
  | backward d hph hhp hop hf hr =>
    exact .inl (runsOn_round hph (hready hhp) hengine hhash (Opcode.roundsDone_backward_next hop hf hr))
  | forwardLast d hph hhp hop hf hr =>
    refine .inl (hi.runsOn_recombine hph (hready hhp) hop ?_ hengine hhash)
    rw [Opcode.roundsDone_forward hop hf, hr]
    rfl
  | backwardLast d hph hhp hop hf hr =>
    refine .inl (hi.runsOn_recombine hph (hready hhp) hop ?_ hengine hhash)
    rw [Opcode.roundsDone_backward hop hf, hr]
    rfl
  | again hph =>
    obtain ⟨he, h1, -⟩ := hi.applicationsDone_check hph
    refine .inl ⟨⟨rfl, rfl, rfl, rfl, rfl, rfl, rfl, rfl⟩, ?_, ?_, ?_, by simp [hengine]⟩
    · simp only [State.engineWork, hph, hengine, if_true]
      omega
    · simp only [State.hashWork, hph, hhash, Bool.false_eq_true, if_false]
      omega
    · simp only [State.requestWork, hph]

/-- A running command runs on by every step other than reset, or the engine's enabled step ends it. -/
theorem WalkInv.runsOn_or_ending {t : State} {e : Event} (hb : s.status.busy = true) (he : e ≠ .reset)
    (h : perform e s = .next t) : RunsOn s e t ∨ (takesEngineStep s e = true ∧ takesHashStep s e = false ∧ Ending s t) := by
  have hstep := runningStep_of_perform hb he h
  cases hstep with
  | wait ie rej resp hengine hhash =>
    refine .inl ⟨⟨rfl, rfl, rfl, rfl, rfl, rfl, rfl, rfl⟩, ?_, ?_, rfl, fun _ _ => ⟨rfl, rfl⟩⟩
    · rw [hengine]
      rfl
    · rw [hhash]
      rfl
  | answer m hengine hhash hm =>
    obtain ⟨hph, -⟩ := hi.engine.request_of_pending hm
    refine .inl ⟨⟨rfl, rfl, rfl, rfl, rfl, rfl, rfl, rfl⟩, ?_, ?_, rfl, by simp [hhash]⟩
    · rw [hengine]
      rfl
    · have hpending : hashEnabled s = true := hashEnabled_iff.mpr ⟨m, hm⟩
      simp only [State.hashWork, hph, hpending, hhash, if_true]
      rfl
  | engine t hengine hhash heff hne =>
    exact (heff.runsOn_or_ending hi hne hengine hhash).imp_right fun hend => ⟨hengine, hhash, hend⟩

end

/-- Taking the event off touches nothing of a command's work. -/
theorem RunsOn.of_advance {s t : State} {e : Event} (h : RunsOn s.advance e t) : RunsOn s e t := by
  rw [advance_eq] at h
  cases e <;> exact ⟨⟨h.keeps.op, h.keeps.n, h.keeps.index, h.keeps.network, h.keeps.wlimit, h.keeps.result, h.keeps.raised,
    h.keeps.status⟩, h.engine, h.hash, h.request, h.waits⟩

theorem WalkInv.step_runsOn_or_ending {s t : State} (hi : WalkInv s) (hb : s.status.busy = true)
    (he : s.nextEvent ≠ .reset) (h : step s = .next t) :
    RunsOn s s.nextEvent t ∨
      (takesEngineStep s s.nextEvent = true ∧ takesHashStep s s.nextEvent = false ∧ Ending s.advance t) := by
  have hstep := hi.advance.runsOn_or_ending ((congrArg Status.busy (advance_status s)).trans hb) he h
  refine hstep.imp RunsOn.of_advance ?_
  rw [advance_eq]
  generalize s.nextEvent = e
  cases e <;> exact id

end Sys2Proof.Machine
end

section
/-! PROOF. A walk over every list of coming events without a reset: it ends with the application that is its last, in whatever order
the agents take their turns, and the counts at its end are those of its applications; and the strict alternation holds an enabled
engine step in each turn (43_cycle_walk.md R203 to R205; 70_reset_and_hazards.md R300); then O50 and O51. -/

namespace Sys2Proof.Machine

/-! ## The last application of a walk -/

/-- `k` is the last application of the walk in `s`: the ones before it miss, the cap allows it, and it lands or is at the cap
(43_cycle_walk.md R203 to R205). -/
structure LastApplication (s : State) (k : Nat) : Prop where
  pos : 1 ≤ k
  missed : Misses (s.network.apply s.op) s.n s.index (k - 1)
  in_cap : s.wlimit ≠ 0 → k ≤ s.wlimit.toNat
  ends : (s.network.apply s.op)^[k] s.index < s.n ∨ (s.wlimit ≠ 0 ∧ s.wlimit.toNat = k)

theorem LastApplication.of_keeps {s t : State} {k : Nat} (h : LastApplication s k) (hk : KeepsCommand s t) :
    LastApplication t k := by
  obtain ⟨hpos, hmissed, hcap, hends⟩ := h
  exact ⟨hpos, by rwa [hk.network, hk.op, hk.n, hk.index], by rwa [hk.wlimit],
    by rwa [hk.network, hk.op, hk.n, hk.index, hk.wlimit]⟩

theorem KeepsCommand.trans {s t u : State} (h : KeepsCommand s t) (h' : KeepsCommand t u) : KeepsCommand s u :=
  ⟨h'.op.trans h.op, h'.n.trans h.n, h'.index.trans h.index, h'.network.trans h.network, h'.wlimit.trans h.wlimit,
    h'.result.trans h.result, h'.raised.trans h.raised, by rw [h'.status, h.status]⟩

/-- How the walk of `s` has ended in `t` with its application `k`: it landed, or it missed at the cap (43_cycle_walk.md R203). -/
structure WalkEnd (s t : State) (k : Nat) : Prop where
  n : t.n = s.n
  index : t.index = s.index
  network : t.network = s.network
  wcount : t.wcount.toNat = k
  landed : (s.network.apply s.op)^[k] s.index < s.n →
    t.result = (s.network.apply s.op)^[k] s.index ∧ t.raised = s.raised ∧
      t.status = { s.status with done := true, busy := false, rej := t.status.rej }
  capped : s.n ≤ (s.network.apply s.op)^[k] s.index →
    t.result = s.result ∧ t.raised = .walkLimit :: s.raised ∧
      t.status = { s.status with err := true, errCode := 6, done := false, busy := false, rej := t.status.rej }

/-- What ends a walk after steps that kept its command ends the walk it was. -/
theorem WalkEnd.of_keeps {s t u : State} {k : Nat} (hk : KeepsCommand s t) (h : WalkEnd t u k) : WalkEnd s u k := by
  obtain ⟨hn, hindex, hnet, hwc, hland, hcap⟩ := h
  rw [hk.network, hk.op, hk.n, hk.index, hk.raised, hk.status] at hland
  rw [hk.network, hk.op, hk.n, hk.index, hk.raised, hk.result, hk.status] at hcap
  exact ⟨hn.trans hk.n, hindex.trans hk.index, hnet.trans hk.network, hwc, hland, hcap⟩

section
variable {s : State} (hi : WalkInv s) (hfold : s.op.folds) {k : Nat} (hk : LastApplication s k)
include hi hfold hk

/-- The applications that have ended in phase `CHECK` are no more than the last one. -/
theorem WalkInv.wc_le_of_check (hph : s.ph = .check) : s.wc.toNat ≤ k := by
  by_contra hmore
  have hmiss := hi.missed_before hph hfold k hk.pos (by omega)
  obtain ⟨hcap, he⟩ := hk.ends.resolve_left (BitVec.not_lt.mpr hmiss)
  have hle := BitVec.le_def.mp (hi.within_cap hph hfold hcap)
  omega

/-- A walk that runs before phase `CHECK` has an application ahead. -/
theorem WalkInv.wc_lt_of_running (hph : s.ph = .setup ∨ s.ph = .hreq ∨ s.ph = .hwait) : s.wc.toNat < k := by
  by_contra hmore
  have hmiss := hi.missed hph hfold k hk.pos (by omega)
  obtain ⟨hcap, he⟩ := hk.ends.resolve_left (BitVec.not_lt.mpr hmiss)
  have hlt := BitVec.lt_def.mp (hi.below_cap hph hfold hcap)
  omega

/-- The counts behind a walk that has not ended. -/
theorem WalkInv.engineWork_lt (hph : s.ph ≠ .idle) : s.engineWork < 8 * k := by
  have hop : s.op.applies := Opcode.applies_of_folds hfold
  have hr := s.op.roundsDone_le s.rnd
  have hpos := hk.pos
  have hdone := Opcode.applicationsDone_of_applies hop s.wc
  unfold State.engineWork
  cases hp : s.ph with
  | idle => exact absurd hp hph
  | pre =>
    dsimp only
    omega
  | setup =>
    have hlt := hi.wc_lt_of_running hfold hk (.inl hp)
    dsimp only
    omega
  | hreq =>
    have hlt := hi.wc_lt_of_running hfold hk (.inr (.inl hp))
    dsimp only
    omega
  | hwait =>
    have hlt := hi.wc_lt_of_running hfold hk (.inr (.inr hp))
    dsimp only
    omega
  | check =>
    have hle := hi.wc_le_of_check hfold hk hp
    dsimp only
    omega

/-- 43_cycle_walk.md R203: the step that ends a walk comes after its last application, and leaves what that application gives. -/
theorem Ending.walkEnd {t : State} (h : Ending s t) :
    s.engineWork + 1 = 8 * k ∧ s.hashWork = 3 * k ∧ s.requestWork = 3 * k ∧ t.sent = s.sent ∧ WalkEnd s t k := by
  have hop : s.op.applies := Opcode.applies_of_folds hfold
  have hsingle : s.op.single = false := by rcases hfold with h | h <;> rw [h] <;> rfl
  have hlast : ∀ hph : s.ph = .check, s.wc.toNat = k → s.engineWork + 1 = 8 * k ∧ s.hashWork = 3 * k ∧ s.requestWork = 3 * k ∧
      s.u = (s.network.apply s.op)^[k] s.index := by
    intro hph he
    have hpos := hk.pos
    have hdone := Opcode.applicationsDone_of_applies hop s.wc
    refine ⟨?_, ?_, ?_, he ▸ hi.value (.inr (.inr (.inr hph))) hop⟩
    · simp only [State.engineWork, hph]
      omega
    · simp only [State.hashWork, hph]
      omega
    · simp only [State.requestWork, hph]
      omega
  cases h with
  | precompute hph =>
    obtain ⟨hpre, -⟩ := hi.engine.pre_op hph
    exact absurd hop (hpre ▸ Opcode.not_applies_precompute)
  | roundf _ _ _ hr => exact absurd hr (Opcode.not_roundf_of_applies hop)
  | land hph hland =>
    have hlt : s.u < s.n := hland.resolve_left (by simp [hsingle])
    have he : s.wc.toNat = k := by
      refine le_antisymm (hi.wc_le_of_check hfold hk hph) (Nat.le_of_not_lt fun hless => ?_)
      have hmiss := hk.missed s.wc.toNat (hi.counted hph) (Nat.le_sub_one_of_lt hless)
      rw [← hi.value (.inr (.inr (.inr hph))) hop] at hmiss
      exact BitVec.not_lt.mpr hmiss hlt
    obtain ⟨hw, hh, hr, hu⟩ := hlast hph he
    exact ⟨hw, hh, hr, rfl, rfl, rfl, rfl, he, fun _ => ⟨hu, rfl, rfl⟩, fun hmiss => absurd hlt (BitVec.not_lt.mpr (hu ▸ hmiss))⟩
  | cap hph _ hmiss hcap hused =>
    have he : s.wc.toNat = k := by
      have hk' := hk.in_cap hcap
      have hle := hi.wc_le_of_check hfold hk hph
      have hge := BitVec.le_def.mp hused
      omega
    obtain ⟨hw, hh, hr, hu⟩ := hlast hph he
    exact ⟨hw, hh, hr, rfl, rfl, rfl, rfl, he, fun hlt => absurd (hu ▸ hlt) (BitVec.not_lt.mpr hmiss), fun _ => ⟨rfl, rfl, rfl⟩⟩

end

/-! ## Runs over a list of events -/

theorem nextEvent_of_inputs {s : State} {e : Event} {es : List Event} (h : s.inputs = e :: es) : s.nextEvent = e := by
  rw [State.nextEvent, h]

theorem AcceptEffect.inputs_eq {w : Word} {s t : State} (h : AcceptEffect w s t) : t.inputs = s.inputs := by
  cases h <;> rfl

/-- No agent's step touches the list of coming events. -/
theorem StepEffect.inputs_eq {e : Event} {s t : State} (h : StepEffect s e t) : t.inputs = s.inputs := by
  cases h with
  | host tr t ht =>
    cases ht with
    | accept t _ _ ha => exact ha.inputs_eq
    | _ => rfl
  | engine b t ht => cases ht <;> rfl
  | hash | hashStay | reset => rfl

theorem inputs_of_step {s t : State} {e : Event} {es : List Event} (hs : s.inputs = e :: es) (h : step s = .next t) :
    t.inputs = es := by
  rw [(step_effect h).inputs_eq, advance_eq, hs]
  rfl

theorem step_total (s : State) : ∃ t, step s = .next t := perform_total s.nextEvent s.advance

theorem step_walkInv {s t : State} (hi : WalkInv s) (h : step s = .next t) : WalkInv t := walkInvKept s t hi h

/-- How a run from `s` has ended with the walk's last application: after how many steps, and with which counts. -/
structure WalkRun (s : State) (k j : Nat) (t : State) : Prop where
  run : Sys2Proof.core.run j s = Host.Outcome.next t
  engine : s.engineWork + engineSteps j s = 8 * k
  hash : s.hashWork + hashSteps j s = 3 * k
  sent : t.sent.length + s.requestWork = s.sent.length + 3 * k
  ends : WalkEnd s t k

/-- A step on which the command runs on comes before the run of the rest. -/
theorem WalkRun.cons {s t u : State} {k j : Nat} (hstep : step s = .next t) (hr : RunsOn s s.nextEvent t)
    (h : WalkRun t k j u) : WalkRun s k (j + 1) u := by
  have hengine := h.engine
  have hhash := h.hash
  have hsent := h.sent
  have hreq := hr.request
  rw [hr.engine] at hengine
  rw [hr.hash] at hhash
  refine ⟨(run_succ_of_step hstep j).trans h.run, ?_, ?_, by omega, h.ends.of_keeps hr.keeps⟩
  · rw [engineSteps, countSteps_succ_of_step hstep, ← add_assoc]
    exact hengine
  · rw [hashSteps, countSteps_succ_of_step hstep, ← add_assoc]
    exact hhash

/-- The engine's step that ends the walk, as a run. -/
theorem WalkRun.of_ending {s t : State} {k : Nat} (hi : WalkInv s) (hfold : s.op.folds) (hk : LastApplication s k)
    (hstep : step s = .next t) (hengine : takesEngineStep s s.nextEvent = true)
    (hhash : takesHashStep s s.nextEvent = false) (h : Ending s.advance t) : WalkRun s k 1 t := by
  have hkeeps : KeepsCommand s s.advance := by
    rw [advance_eq]
    exact ⟨rfl, rfl, rfl, rfl, rfl, rfl, rfl, rfl⟩
  have hfold' : s.advance.op.folds := hkeeps.op ▸ hfold
  have hend := h.walkEnd hi.advance hfold' (hk.of_keeps hkeeps)
  have hcounts : s.advance.engineWork = s.engineWork ∧ s.advance.hashWork = s.hashWork ∧
      s.advance.requestWork = s.requestWork ∧ s.advance.sent = s.sent := by
    rw [advance_eq]
    exact ⟨rfl, rfl, rfl, rfl⟩
  obtain ⟨he, hh, hr, hs⟩ := hcounts
  rw [he, hh, hr, hs] at hend
  obtain ⟨hw, hhw, hrw, hsent, hwalk⟩ := hend
  refine ⟨run_succ_of_step hstep 0, ?_, ?_, by rw [hsent, hrw], hwalk.of_keeps hkeeps⟩
  · rw [engineSteps, countSteps_succ_of_step hstep, if_pos hengine]
    exact hw
  · rw [hashSteps, countSteps_succ_of_step hstep, hhash]
    exact hhw

/-- 43_cycle_walk.md R204, R205: over every list of events without a reset that holds enough enabled engine steps, a running walk
ends with its last application. -/
theorem walk_runs_to_end {k : Nat} (es : List Event) : ∀ s : State, WalkInv s → s.status.busy = true → s.op.folds →
    LastApplication s k → s.inputs = es → .reset ∉ es → 8 * k ≤ s.engineWork + engineSteps es.length s →
    ∃ j t, j ≤ es.length ∧ WalkRun s k j t := by
  induction es with
  | nil =>
    intro s hi hb hfold hk _ _ hsteps
    have hlt := hi.engineWork_lt hfold hk (hi.engine.status.busy_iff_running.mp hb)
    simp only [List.length_nil, engineSteps, countSteps_zero] at hsteps
    omega
  | cons e es ih =>
    intro s hi hb hfold hk hs hreset hsteps
    obtain ⟨t, hstep⟩ := step_total s
    have hne : s.nextEvent ≠ .reset := by
      rw [nextEvent_of_inputs hs]
      rintro rfl
      exact hreset List.mem_cons_self
    rcases hi.step_runsOn_or_ending hb hne hstep with hr | ⟨hengine, hhash, hend⟩
    · rw [List.length_cons, engineSteps, countSteps_succ_of_step hstep, ← add_assoc, ← hr.engine] at hsteps
      obtain ⟨j, u, hj, hu⟩ := ih t (step_walkInv hi hstep) (hr.keeps.busy.trans hb) (hr.keeps.op ▸ hfold)
        (hk.of_keeps hr.keeps) (inputs_of_step hs hstep) (fun h => hreset (List.mem_cons_of_mem e h)) hsteps
      exact ⟨j + 1, u, Nat.succ_le_succ hj, hu.cons hstep hr⟩
    · exact ⟨1, t, Nat.succ_le_succ (Nat.zero_le _), .of_ending hi hfold hk hstep hengine hhash hend⟩

/-! ## The strict alternation -/

/-- A running command that waits for no response has an engine step, whatever turn it gets with `hreq_ready = 1`. -/
theorem WalkInv.engineEnabled_of_not_hashEnabled {s : State} (hi : WalkInv s) (hb : s.status.busy = true)
    (hh : hashEnabled s = false) : engineEnabled true s = true := by
  have hph : s.ph ≠ .idle := hi.engine.status.busy_iff_running.mp hb
  rw [engineEnabled_iff]
  cases hp : s.ph with
  | idle => exact absurd hp hph
  | hreq => exact .inr (.inr (.inl ⟨rfl, hi.engine.port_empty (by simp [hp]), rfl⟩))
  | hwait =>
    rcases hi.engine.port_waiting hp with h | h
    · simp [hashEnabled, h] at hh
    · exact .inr (.inr (.inr (.inl ⟨rfl, _, h⟩)))
  | pre | setup | check => simp

/-- After a response no request waits. -/
theorem hashEnabled_hashStep (s : State) : hashEnabled (hashStep s) = false := by
  rcases hashStep_cases s with ⟨m, hm, e⟩ | ⟨hm, e⟩ <;> rw [e]
  · rfl
  · exact Bool.eq_false_of_not_eq_true fun h => (hashEnabled_iff.mp h).elim hm

/-- The collaborator's turn of the alternation leaves the command running and waiting for no response. -/
theorem WalkInv.response_turn {s : State} {es : List Event} (hi : WalkInv s) (hb : s.status.busy = true)
    (hs : s.inputs = .hashResponse :: es) :
    ∃ t, step s = .next t ∧ t.inputs = es ∧ RunsOn s .hashResponse t ∧ WalkInv t ∧ hashEnabled t = false := by
  have hev : s.nextEvent = .hashResponse := nextEvent_of_inputs hs
  obtain ⟨t, hstep⟩ := step_total s
  have ht : t = hashStep s.advance := by
    have h := hstep
    rw [step, hev] at h
    exact (Host.Outcome.next.inj h).symm
  refine ⟨t, hstep, inputs_of_step hs hstep, ?_, step_walkInv hi hstep, ht ▸ hashEnabled_hashStep _⟩
  rcases hi.step_runsOn_or_ending hb (by rw [hev]; nofun) hstep with hr | ⟨hno, -, -⟩
  · exact hev ▸ hr
  · rw [hev] at hno
    cases hno

/-- One turn of the alternation, for a command that waits for no response: the engine's step ends the command, or the turn adds one
engine step and leaves the command running and waiting for no response again. -/
theorem WalkInv.turn {s : State} {es : List Event} (hi : WalkInv s) (hb : s.status.busy = true)
    (hh : hashEnabled s = false) (hs : s.inputs = .engine true :: .hashResponse :: es) :
    takesEngineStep s s.nextEvent = true ∧ ∃ t, step s = .next t ∧ t.inputs = .hashResponse :: es ∧
      (Ending s.advance t ∨ ∃ u, step t = .next u ∧ u.inputs = es ∧ KeepsCommand s u ∧ WalkInv u ∧
        hashEnabled u = false ∧ u.engineWork = s.engineWork + 1) := by
  have hengine : takesEngineStep s s.nextEvent = true := by
    rw [nextEvent_of_inputs hs]
    exact hi.engineEnabled_of_not_hashEnabled hb hh
  obtain ⟨t, hstep⟩ := step_total s
  have ht : t.inputs = .hashResponse :: es := inputs_of_step hs hstep
  refine ⟨hengine, t, hstep, ht, ?_⟩
  rcases hi.step_runsOn_or_ending hb (by rw [nextEvent_of_inputs hs]; nofun) hstep with hr | ⟨-, -, hend⟩
  · obtain ⟨u, hstep', hu, hr', hiu, hhu⟩ :=
      (step_walkInv hi hstep).response_turn (hr.keeps.busy.trans hb) ht
    refine .inr ⟨u, hstep', hu, hr.keeps.trans hr'.keeps, hiu, hhu, ?_⟩
    rw [hr'.engine, hr.engine, hengine]
    rfl
  · exact .inl hend

/-- The alternation holds an enabled engine step in each turn, until the walk has ended. -/
theorem le_engineSteps_fairTurns {k : Nat} (m : Nat) : ∀ s : State, WalkInv s → s.status.busy = true → s.op.folds →
    LastApplication s k → hashEnabled s = false → s.inputs = fairTurns m → s.engineWork + m ≤ 8 * k →
    m ≤ engineSteps (2 * m) s := by
  induction m with
  | zero => exact fun s _ _ _ _ _ _ _ => Nat.zero_le _
  | succ m ih =>
    intro s hi hb hfold hk hh hs hroom
    obtain ⟨hengine, t, hstep, ht, hturn⟩ := hi.turn hb hh hs
    rw [show 2 * (m + 1) = 2 * m + 1 + 1 by omega, engineSteps, countSteps_succ_of_step hstep, if_pos hengine]
    rcases hturn with hend | ⟨u, hstep', hu, hkeeps, hiu, hhu, hwork⟩
    · have hlast := WalkRun.of_ending hi hfold hk hstep hengine (by rw [nextEvent_of_inputs hs]; rfl) hend
      have hwork := hlast.engine
      rw [engineSteps, countSteps_succ_of_step hstep, if_pos hengine, countSteps_zero] at hwork
      omega
    · have hrest := ih u hiu (hkeeps.busy.trans hb) (hkeeps.op ▸ hfold) (hk.of_keeps hkeeps) hhu hu (by omega)
      rw [countSteps_succ_of_step hstep', nextEvent_of_inputs ht]
      rw [engineSteps] at hrest
      omega

/-! ## A walk from its start -/

/-- What a walk that was accepted to run starts from. -/
structure WalkStart (s : State) (op : Opcode) (f : Word → Word) : Prop where
  inv : WalkInv (s.startFromIndex op)
  folds : op.folds
  direction : f = s.network.apply op
  no_err : s.status.err = false

/-- PERMUTE and INVERT that were accepted to run (43_cycle_walk.md R200, R201). -/
theorem walkStart_of_exec {s t : State} {f : Word → Word} (hi : WalkInv s) (hb : s.status.busy = false)
    (h : (exec .permute s = .next t ∧ f = s.network.encode) ∨ (exec .invert s = .next t ∧ f = s.network.decode))
    (hrun : t.status.busy = true) : ∃ op, t = s.startFromIndex op ∧ WalkStart s op f := by
  rcases h with ⟨h, rfl⟩ | ⟨h, rfl⟩
  · have heff : AcceptEffect (encode .permute) s t := acceptWord_effect ((acceptWord_encode rfl s).trans h)
    obtain ⟨he, rfl⟩ := started_of_walk hb hrun (Host.Outcome.next.inj h)
    exact ⟨.permute, rfl, heff.walkInv hi, .inl rfl, rfl, he⟩
  · have heff : AcceptEffect (encode .invert) s t := acceptWord_effect ((acceptWord_encode rfl s).trans h)
    obtain ⟨he, rfl⟩ := started_of_walk hb hrun (Host.Outcome.next.inj h)
    exact ⟨.invert, rfl, heff.walkInv hi, .inr rfl, rfl, he⟩

section
variable {s : State} {op : Opcode} {f : Word → Word} (hw : WalkStart s op f)
include hw

/-- The walk of a command that runs lands within 4 applications (43_cycle_walk.md R212). -/
theorem WalkStart.exists_walksTo : ∃ k y, WalksTo f s.n s.index k y ∧ k ≤ 4 := by
  have happ : (s.startFromIndex op).ph.inApplication := .inl rfl
  have ht : TripleOfN (s.startFromIndex op) := hw.inv.engine.triple happ
  obtain ⟨k, y, hwalk, hfour, -⟩ :=
    exists_walksTo_apply ht.wellFormed op ht.n_le (hw.inv.engine.folding_in_range happ hw.folds)
  exact ⟨k, y, hw.direction ▸ hwalk, hfour⟩

/-- A walk that lands within its cap, or without one, has its landing application as its last. -/
theorem WalkStart.last_of_walksTo {k : Nat} {y : Word} (hwalk : WalksTo f s.n s.index k y)
    (hcap : s.wlimit ≠ 0 → k ≤ s.wlimit.toNat) (es : List Event) :
    LastApplication ((s.startFromIndex op).withInputs es) k := by
  obtain rfl := hw.direction
  obtain ⟨hk, rfl, hland, hmiss⟩ := hwalk
  exact ⟨hk, fun j h1 hj => hmiss j h1 (by omega), hcap, .inl hland⟩

/-- A walk that misses up to its cap has the application at the cap as its last. -/
theorem WalkStart.last_of_misses (hcap : s.wlimit ≠ 0) (hmiss : Misses f s.n s.index s.wlimit.toNat) (es : List Event) :
    LastApplication ((s.startFromIndex op).withInputs es) s.wlimit.toNat := by
  obtain rfl := hw.direction
  exact ⟨BitVec.lt_def.mp (zero_lt_of_ne_zero hcap), fun j h1 hj => hmiss j h1 (by omega), fun _ => le_rfl, .inr ⟨hcap, rfl⟩⟩

theorem WalkStart.inv_withInputs (es : List Event) : WalkInv ((s.startFromIndex op).withInputs es) :=
  hw.inv.frame s.ie s.status.rej es s.turn s.resp

theorem WalkStart.fairTurns_steps {k : Nat} (hk : ∀ es, LastApplication ((s.startFromIndex op).withInputs es) k) :
    8 * k ≤ engineSteps (16 * k) ((s.startFromIndex op).withInputs (fairTurns (8 * k))) := by
  have hport : s.hp = .empty := hw.inv.engine.port_empty nofun
  have hstart : ((s.startFromIndex op).withInputs (fairTurns (8 * k))).engineWork = 0 := by
    simp only [State.engineWork, withInputs_ph, startFromIndex_ph, withInputs_op, startFromIndex_op, withInputs_wc,
      startFromIndex_wc, Opcode.applicationsDone_of_applies (Opcode.applies_of_folds hw.folds)]
    rfl
  have h := le_engineSteps_fairTurns (8 * k) _ (hw.inv_withInputs _) rfl hw.folds (hk _)
    (by simp only [hashEnabled, withInputs_hp, startFromIndex_hp, hport]) rfl (by omega)
  rwa [show 2 * (8 * k) = 16 * k by omega] at h

/-- The whole run of a walk, from its start to the end with its last application. -/
theorem WalkStart.run {k : Nat} {es : List Event} (hk : LastApplication ((s.startFromIndex op).withInputs es) k)
    (hreset : .reset ∉ es) (hsteps : 8 * k ≤ engineSteps es.length ((s.startFromIndex op).withInputs es)) :
    ∃ j t', j ≤ es.length ∧ Sys2Proof.core.run j ((s.startFromIndex op).withInputs es) = Host.Outcome.next t' ∧
      engineSteps j ((s.startFromIndex op).withInputs es) = 8 * k ∧
      hashSteps j ((s.startFromIndex op).withInputs es) = 3 * k ∧ t'.sent.length = s.sent.length + 3 * k ∧
      WalkEnd (s.startFromIndex op) t' k := by
  have hdone : op.applicationsDone 0 = 0 := Opcode.applicationsDone_of_applies (Opcode.applies_of_folds hw.folds) 0
  have hcounts : ((s.startFromIndex op).withInputs es).engineWork = 8 * op.applicationsDone 0 ∧
      ((s.startFromIndex op).withInputs es).hashWork = 3 * op.applicationsDone 0 ∧
      ((s.startFromIndex op).withInputs es).requestWork = 3 * op.applicationsDone 0 := ⟨rfl, rfl, rfl⟩
  obtain ⟨he, hh, hr⟩ := hcounts
  obtain ⟨j, t', hj, hrun⟩ := walk_runs_to_end es _ (hw.inv_withInputs es) rfl hw.folds hk rfl hreset (by omega)
  have hengine := hrun.engine
  have hhash := hrun.hash
  have hsent := hrun.sent
  rw [withInputs_sent, startFromIndex_sent] at hsent
  obtain ⟨hn, hindex, hnet, hwc, hland, hcap⟩ := hrun.ends
  exact ⟨j, t', hj, hrun.run, by omega, by omega, by omega, hn, hindex, hnet, hwc, hland, hcap⟩

end

/-! ## The obligations -/

/-- Settles O50: the last application of a walk without a cap is the one that lands. -/
theorem uncappedWalkRunsToEnd : Obligations.UncappedWalkRunsToEnd := by
  intro s t f hi hb hcap hexec hrun
  obtain ⟨op, rfl, hw⟩ := walkStart_of_exec hi hb hexec hrun
  refine ⟨?_, fun k y es hwalk hreset hsteps => ?_⟩
  · obtain ⟨k, y, hwalk, hfour⟩ := hw.exists_walksTo
    exact ⟨k, y, hwalk, hfour, hw.fairTurns_steps (hw.last_of_walksTo hwalk fun h => absurd hcap h)⟩
  · obtain ⟨j, t', hj, hrun', hengine, hhash, hsent, hend⟩ :=
      hw.run (hw.last_of_walksTo hwalk (fun h => absurd hcap h) es) hreset hsteps
    obtain ⟨-, hy, hlt, -⟩ := hwalk
    rw [hw.direction] at hy
    obtain ⟨hres, hraised, hstatus⟩ := hend.landed (hy.symm ▸ hlt)
    exact ⟨j, t', hj, hrun', hengine, hhash, hres.trans hy, hend.wcount, hsent, hraised,
      by rw [hstatus, ← hw.no_err]; rfl, hend.n, hend.index, hend.network⟩

/-- Settles O51: the last application of a capped walk is the one that lands, or else the one at the cap. -/
theorem cappedWalkRunsToEnd : Obligations.CappedWalkRunsToEnd := by
  intro s t f hi hb hcap hexec hrun
  obtain ⟨op, rfl, hw⟩ := walkStart_of_exec hi hb hexec hrun
  refine ⟨?_, fun k y es hwalk hk hreset hsteps => ?_, fun es hmiss hreset hsteps => ?_⟩
  · obtain ⟨k, y, hwalk, hfour⟩ := hw.exists_walksTo
    by_cases hk : k ≤ s.wlimit.toNat
    · exact ⟨k, hfour, hw.fairTurns_steps (hw.last_of_walksTo hwalk fun _ => hk), .inl ⟨hk, y, hwalk⟩⟩
    · obtain ⟨-, -, -, hmissed⟩ := hwalk
      have hmiss : Misses f s.n s.index s.wlimit.toNat := fun j h1 hj => hmissed j h1 (by omega)
      exact ⟨s.wlimit.toNat, by omega, hw.fairTurns_steps (hw.last_of_misses hcap hmiss), .inr ⟨rfl, hmiss⟩⟩
  · obtain ⟨j, t', hj, hrun', hengine, hhash, hsent, hend⟩ :=
      hw.run (hw.last_of_walksTo hwalk (fun _ => hk) es) hreset hsteps
    obtain ⟨-, hy, hlt, -⟩ := hwalk
    rw [hw.direction] at hy
    obtain ⟨hres, hraised, hstatus⟩ := hend.landed (hy.symm ▸ hlt)
    exact ⟨j, t', hj, hrun', hengine, hhash, hres.trans hy, hend.wcount, hsent, hraised,
      by rw [hstatus, ← hw.no_err]; rfl⟩
  · obtain ⟨j, t', hj, hrun', hengine, hhash, hsent, hend⟩ := hw.run (hw.last_of_misses hcap hmiss es) hreset hsteps
    have hlast := hmiss s.wlimit.toNat (BitVec.lt_def.mp (zero_lt_of_ne_zero hcap)) le_rfl
    rw [hw.direction] at hlast
    obtain ⟨hres, hraised, hstatus⟩ := hend.capped hlast
    exact ⟨j, t', hj, hrun', hengine, hhash, hres, BitVec.eq_of_toNat_eq hend.wcount, hsent, hraised, hstatus⟩

end Sys2Proof.Machine
end

section
/-! PROOF. Every running command ends: the counts behind it grow with every enabled step and are bounded, so in a weakly fair run
there comes a time after which no step is enabled, which fairness excludes; and a command that waits for a response, or for
`hreq_ready`, that never comes runs on (70_reset_and_hazards.md R300, R301; 41_round_function.md R152); then O52. -/

namespace Sys2Proof.Machine

/-! ## The work of a command that runs on -/

theorem not_busy_of_reset {s t : State} (hreset : s.nextEvent = .reset) (h : step s = .next t) :
    t.status.busy = false := by
  rw [step, hreset] at h
  cases h
  rfl

/-- A step after which the command still runs is none that ends it. -/
theorem WalkInv.runsOn_of_busy {s t : State} (hi : WalkInv s) (hb : s.status.busy = true) (h : step s = .next t)
    (hbt : t.status.busy = true) : RunsOn s s.nextEvent t := by
  have hne : s.nextEvent ≠ .reset := fun hreset => by simp [not_busy_of_reset hreset h] at hbt
  rcases hi.step_runsOn_or_ending hb hne h with hr | ⟨-, -, hend⟩
  · exact hr
  · cases hend <;> cases hbt

/-- Over steps throughout which the command runs, the counts behind it grow by the enabled steps. -/
theorem work_of_running (k : Nat) : ∀ s : State, WalkInv s →
    (∀ j t, j ≤ k → Sys2Proof.core.run j s = Host.Outcome.next t → t.status.busy = true) →
    ∃ t, WalkInv t ∧ t.engineWork = s.engineWork + engineSteps k s ∧ t.hashWork = s.hashWork + hashSteps k s := by
  induction k with
  | zero => exact fun s hi _ => ⟨s, hi, rfl, rfl⟩
  | succ k ih =>
    intro s hi hrun
    obtain ⟨t, hstep⟩ := step_total s
    have hr : RunsOn s s.nextEvent t := hi.runsOn_of_busy (hrun 0 s (Nat.zero_le _) rfl) hstep
      (hrun 1 t (Nat.succ_le_succ (Nat.zero_le k)) (run_succ_of_step hstep 0))
    obtain ⟨u, hu, hengine, hhash⟩ := ih t (step_walkInv hi hstep) fun j v hj hv =>
      hrun (j + 1) v (Nat.succ_le_succ hj) ((run_succ_of_step hstep j).trans hv)
    refine ⟨u, hu, ?_, ?_⟩
    · rw [hengine, hr.engine, engineSteps, engineSteps, countSteps_succ_of_step hstep, add_assoc]
    · rw [hhash, hr.hash, hashSteps, hashSteps, countSteps_succ_of_step hstep, add_assoc]

/-! ## Fair runs -/

section
variable {ev : Nat → Event} {st : Nat → State} (hrun : IsRun ev st)
include hrun

theorem IsRun.walkInv (h0 : WalkInv (st 0)) (k : Nat) : WalkInv (st k) := by
  induction k with
  | zero => exact h0
  | succ k ih =>
    have hk : WalkInv { st k with inputs := [ev k] } :=
      ih.frame (st k).ie (st k).status.rej [ev k] (st k).turn (st k).resp
    exact step_walkInv hk (hrun k)

theorem IsRun.runsOn (h0 : WalkInv (st 0)) (hbusy : ∀ k, (st k).status.busy = true) (k : Nat) :
    RunsOn (st k) (ev k) (st (k + 1)) := by
  have hk : WalkInv { st k with inputs := [ev k] } :=
    (hrun.walkInv h0 k).frame (st k).ie (st k).status.rej [ev k] (st k).turn (st k).resp
  have hr := hk.runsOn_of_busy (hbusy k) (hrun k) (hbusy (k + 1))
  cases he : ev k <;> rw [he] at hr <;>
    exact ⟨⟨hr.keeps.op, hr.keeps.n, hr.keeps.index, hr.keeps.network, hr.keeps.wlimit, hr.keeps.result, hr.keeps.raised,
      hr.keeps.status⟩, hr.engine, hr.hash, hr.request, hr.waits⟩

end

/-- A bounded sequence of numbers that never falls is constant from some place on. -/
theorem exists_stable {w : Nat → Nat} {b : Nat} (hmono : ∀ k, w k ≤ w (k + 1)) (hle : ∀ k, w k ≤ b) :
    ∃ k, ∀ j, k ≤ j → w j = w k := by
  have hbdd : BddAbove (Set.range w) := ⟨b, by rintro _ ⟨k, rfl⟩; exact hle k⟩
  obtain ⟨k, hk⟩ := Nat.sSup_mem (Set.range_nonempty w) hbdd
  refine ⟨k, fun j hj => le_antisymm ?_ (monotone_nat_of_le_succ hmono hj)⟩
  rw [hk]
  exact le_csSup hbdd (Set.mem_range_self j)

/-- In a run whose command never ends there comes a time after which no enabled step is taken. -/
theorem IsRun.exists_quiet {ev : Nat → Event} {st : Nat → State} (hrun : IsRun ev st) (h0 : WalkInv (st 0))
    (hbusy : ∀ k, (st k).status.busy = true) :
    ∃ k, ∀ j, k ≤ j → takesEngineStep (st j) (ev j) = false ∧ takesHashStep (st j) (ev j) = false := by
  have hwork : ∀ k, (st (k + 1)).engineWork + (st (k + 1)).hashWork = (st k).engineWork + (st k).hashWork +
      (if takesEngineStep (st k) (ev k) then 1 else 0) + (if takesHashStep (st k) (ev k) then 1 else 0) := fun k => by
    have hr := hrun.runsOn h0 hbusy k
    rw [hr.engine, hr.hash]
    omega
  obtain ⟨k, hk⟩ := exists_stable (w := fun k => (st k).engineWork + (st k).hashWork) (b := 44)
    (fun k => by have := hwork k; omega) (fun k => by have := (hrun.walkInv h0 k).work_bounds; omega)
  refine ⟨k, fun j hj => ?_⟩
  have hstep := hwork j
  have hj0 := hk j hj
  have hj1 := hk (j + 1) (by omega)
  have hnone : (if takesEngineStep (st j) (ev j) then 1 else 0) = 0 ∧
      (if takesHashStep (st j) (ev j) then 1 else 0) = 0 := by omega
  simpa using hnone

/-- From then on the phase and the hash port stay as they are. -/
theorem IsRun.stuck_of_quiet {ev : Nat → Event} {st : Nat → State} (hrun : IsRun ev st) (h0 : WalkInv (st 0))
    (hbusy : ∀ k, (st k).status.busy = true) {k : Nat}
    (hquiet : ∀ j, k ≤ j → takesEngineStep (st j) (ev j) = false ∧ takesHashStep (st j) (ev j) = false) (j : Nat)
    (hj : k ≤ j) : (st j).ph = (st k).ph ∧ (st j).hp = (st k).hp := by
  induction j, hj using Nat.le_induction with
  | base => exact ⟨rfl, rfl⟩
  | succ j hj ih =>
    obtain ⟨hengine, hhash⟩ := hquiet j hj
    obtain ⟨hph, hhp⟩ := (hrun.runsOn h0 hbusy j).waits hengine hhash
    exact ⟨hph.trans ih.1, hhp.trans ih.2⟩

/-- What a step that is enabled hangs on: the phase and the hash port. -/
theorem engineEnabled_congr {s t : State} (hph : t.ph = s.ph) (hhp : t.hp = s.hp) (b : Bool) :
    engineEnabled b t = engineEnabled b s := by
  rw [engineEnabled, engineEnabled, hph, hhp]

theorem hashEnabled_congr {s t : State} (hhp : t.hp = s.hp) : hashEnabled t = hashEnabled s := by
  rw [hashEnabled, hashEnabled, hhp]

/-- Outside phase `HREQ` an engine step that is enabled does not hang on `hreq_ready`. -/
theorem engineEnabled_of_not_hreq {s : State} (hph : s.ph ≠ .hreq) (h : engineEnabled true s = true) (b : Bool) :
    engineEnabled b s = true := by
  rw [engineEnabled_iff] at h ⊢
  rcases h with h | h | ⟨h, -, -⟩ | h | h
  · exact .inl h
  · exact .inr (.inl h)
  · exact absurd h hph
  · exact .inr (.inr (.inr (.inl h)))
  · exact .inr (.inr (.inr (.inr h)))

/-- 70_reset_and_hazards.md R301: in a weakly fair run every command ends. -/
theorem IsRun.ends_of_fair {ev : Nat → Event} {st : Nat → State} (hrun : IsRun ev st) (h0 : WalkInv (st 0))
    (hengine : EngineFair ev st) (hready : HashReady ev st) (hanswers : HashAnswers ev st) :
    ∃ k, (st k).status.busy = false := by
  by_contra hnever
  have hbusy : ∀ k, (st k).status.busy = true := fun k => by
    by_contra hk
    exact hnever ⟨k, Bool.eq_false_of_not_eq_true hk⟩
  obtain ⟨k, hquiet⟩ := hrun.exists_quiet h0 hbusy
  have hstuck := hrun.stuck_of_quiet h0 hbusy hquiet
  have hi : WalkInv (st k) := hrun.walkInv h0 k
  cases hh : hashEnabled (st k)
  · have hen : engineEnabled true (st k) = true := hi.engineEnabled_of_not_hashEnabled (hbusy k) hh
    have hen' : ∀ j, k ≤ j → engineEnabled true (st j) = true := fun j hj =>
      (engineEnabled_congr (hstuck j hj).1 (hstuck j hj).2 true).trans hen
    by_cases hph : (st k).ph = .hreq
    · have hhp : (st k).hp = .empty := hi.engine.port_empty (by simp [hph])
      obtain ⟨j, hj, hev⟩ := hready k fun j hj =>
        hreqValid_iff.mpr ⟨(hstuck j hj).1.trans hph, (hstuck j hj).2.trans hhp⟩
      obtain ⟨hno, -⟩ := hquiet j hj
      rw [hev] at hno
      exact absurd (hen' j hj) (ne_true_of_eq_false hno)
    · obtain ⟨j, hj, b, hev⟩ := hengine k hen'
      obtain ⟨hno, -⟩ := hquiet j hj
      rw [hev] at hno
      exact absurd (engineEnabled_of_not_hreq ((hstuck j hj).1 ▸ hph) (hen' j hj) b) (ne_true_of_eq_false hno)
  · obtain ⟨j, hj, hev⟩ := hanswers k fun j hj => (hashEnabled_congr (hstuck j hj).2).trans hh
    obtain ⟨-, hno⟩ := hquiet j hj
    rw [hev] at hno
    exact absurd ((hashEnabled_congr (hstuck j hj).2).trans hh) (ne_true_of_eq_false hno)

/-! ## Runs without the hash -/

/-- A step of a running command, as the run's next state. -/
theorem IsRun.runningStep {ev : Nat → Event} {st : Nat → State} (hrun : IsRun ev st) {k : Nat}
    (hb : (st k).status.busy = true) (hreset : ev k ≠ .reset) :
    RunningStep { st k with inputs := [], resp := none } (ev k) (st (k + 1)) :=
  runningStep_of_perform hb hreset (hrun k)

/-- A command whose response never comes waits for it (41_round_function.md R152). -/
theorem IsRun.waits_for_response {ev : Nat → Event} {st : Nat → State} (hrun : IsRun ev st)
    (hb : (st 0).status.busy = true) (hreset : ∀ k, ev k ≠ .reset) (hph : (st 0).ph = .hwait) {m : Msg}
    (hm : (st 0).hp = .pending m) (hno : ∀ k, ev k ≠ .hashResponse) (k : Nat) :
    (st k).status.busy = true ∧ (st k).ph = .hwait ∧ (st k).hp = .pending m := by
  induction k with
  | zero => exact ⟨hb, hph, hm⟩
  | succ k ih =>
    obtain ⟨hbk, hphk, hmk⟩ := ih
    have hstep := hrun.runningStep hbk (hreset k)
    generalize hev : ev k = e at hstep
    generalize st (k + 1) = t at hstep
    cases hstep with
    | wait => exact ⟨hbk, hphk, hmk⟩
    | answer m' _ hhash =>
      cases e with
      | hashResponse => exact absurd hev (hno k)
      | host | engine | reset => cases hhash
    | engine t hengine =>
      cases e with
      | engine b =>
        have hen : engineEnabled b (st k) = true := hengine
        simp [engineEnabled_iff, hphk, hmk] at hen
      | host | hashResponse | reset => cases hengine

/-- A command whose request is never taken waits for `hreq_ready` (41_round_function.md R153). -/
theorem IsRun.waits_for_ready {ev : Nat → Event} {st : Nat → State} (hrun : IsRun ev st)
    (hb : (st 0).status.busy = true) (hreset : ∀ k, ev k ≠ .reset) (hph : (st 0).ph = .hreq)
    (hno : ∀ k, ev k ≠ .engine true) (k : Nat) : (st k).status.busy = true ∧ (st k).ph = .hreq := by
  induction k with
  | zero => exact ⟨hb, hph⟩
  | succ k ih =>
    obtain ⟨hbk, hphk⟩ := ih
    have hstep := hrun.runningStep hbk (hreset k)
    generalize hev : ev k = e at hstep
    generalize st (k + 1) = t at hstep
    cases hstep with
    | wait | answer => exact ⟨hbk, hphk⟩
    | engine t hengine =>
      cases e with
      | engine b =>
        have hen : engineEnabled b (st k) = true := hengine
        have hready : (st k).hp = .empty ∧ b = true := by simpa [hphk] using (engineEnabled_iff b (st k)).mp hen
        exact absurd (hready.2 ▸ hev) (hno k)
      | host | hashResponse | reset => cases hengine

/-! ## The strict alternation -/

/-- No turn of the engine or of the collaborator starts a command. -/
theorem idle_of_step {s t : State} {e : Event} {es : List Event} (hph : s.ph = .idle) (hb : s.status.busy = false)
    (hs : s.inputs = e :: es) (he : (∃ b, e = .engine b) ∨ e = .hashResponse) (h : step s = .next t) :
    t.ph = .idle ∧ t.status.busy = false := by
  have heff := step_effect h
  rw [nextEvent_of_inputs hs] at heff
  have hadv : s.advance.ph = .idle ∧ s.advance.status.busy = false := by
    rw [advance_ph, advance_status]
    exact ⟨hph, hb⟩
  cases heff with
  | engine b t ht => exact ht.eq_of_idle hadv.1 ▸ hadv
  | hash | hashStay => exact hadv
  | host | reset => simp at he

theorem idle_over_fairTurns (m : Nat) : ∀ s : State, s.ph = .idle → s.status.busy = false → s.inputs = fairTurns m →
    ∃ t, Sys2Proof.core.run (2 * m) s = Host.Outcome.next t ∧ t.status.busy = false := by
  induction m with
  | zero => exact fun s _ hb _ => ⟨s, rfl, hb⟩
  | succ m ih =>
    intro s hph hb hs
    obtain ⟨t, hstep⟩ := step_total s
    obtain ⟨hpht, hbt⟩ := idle_of_step hph hb hs (.inl ⟨true, rfl⟩) hstep
    have ht := inputs_of_step hs hstep
    obtain ⟨u, hstep'⟩ := step_total t
    obtain ⟨hphu, hbu⟩ := idle_of_step hpht hbt ht (.inr rfl) hstep'
    obtain ⟨v, hv, hbv⟩ := ih u hphu hbu (inputs_of_step ht hstep')
    exact ⟨v, (run_succ_of_step hstep (2 * m + 1)).trans ((run_succ_of_step hstep' (2 * m)).trans hv), hbv⟩

theorem Ending.idle {s t : State} (h : Ending s t) : t.ph = .idle ∧ t.status.busy = false := by
  cases h <;> exact ⟨rfl, rfl⟩

/-- Each turn of the alternation takes a command that waits for no response one step on, and there are fewer than 32. -/
theorem ends_over_fairTurns (m : Nat) : ∀ s : State, WalkInv s → s.status.busy = true → hashEnabled s = false →
    s.inputs = fairTurns m → 32 ≤ s.engineWork + m →
    ∃ t, Sys2Proof.core.run (2 * m) s = Host.Outcome.next t ∧ t.status.busy = false := by
  induction m with
  | zero =>
    intro s hi _ _ _ hlate
    obtain ⟨hbound, -⟩ := hi.work_bounds
    omega
  | succ m ih =>
    intro s hi hb hh hs hlate
    obtain ⟨-, t, hstep, ht, hturn⟩ := hi.turn hb hh hs
    have hrest : ∀ u, step t = .next u →
        (∃ v, Sys2Proof.core.run (2 * m) u = Host.Outcome.next v ∧ v.status.busy = false) →
        ∃ v, Sys2Proof.core.run (2 * (m + 1)) s = Host.Outcome.next v ∧ v.status.busy = false := fun u hstep' ⟨v, hv, hbv⟩ =>
      ⟨v, (run_succ_of_step hstep (2 * m + 1)).trans ((run_succ_of_step hstep' (2 * m)).trans hv), hbv⟩
    rcases hturn with hend | ⟨u, hstep', hu, hkeeps, hiu, hhu, hwork⟩
    · obtain ⟨u, hstep'⟩ := step_total t
      obtain ⟨hpht, hbt⟩ := hend.idle
      obtain ⟨hphu, hbu⟩ := idle_of_step hpht hbt ht (.inr rfl) hstep'
      exact hrest u hstep' (idle_over_fairTurns m u hphu hbu (inputs_of_step ht hstep'))
    · exact hrest u hstep' (ih u hiu (hkeeps.busy.trans hb) hhu hu (by omega))

/-- A command that waits for a response has it after one turn of the alternation. -/
theorem WalkInv.waiting_turn {s : State} {es : List Event} (hi : WalkInv s) (hb : s.status.busy = true)
    (hh : hashEnabled s = true) (hs : s.inputs = .engine true :: .hashResponse :: es) :
    ∃ t u, step s = .next t ∧ step t = .next u ∧ u.inputs = es ∧ WalkInv u ∧ u.status.busy = true ∧
      hashEnabled u = false := by
  obtain ⟨m, hm⟩ := hashEnabled_iff.mp hh
  obtain ⟨hph, -⟩ := hi.engine.request_of_pending hm
  have hno : takesEngineStep s s.nextEvent = false := by
    rw [nextEvent_of_inputs hs]
    exact Bool.eq_false_of_not_eq_true fun hen => by simp [takesEngineStep, engineEnabled_iff, hph, hm] at hen
  obtain ⟨t, hstep⟩ := step_total s
  rcases hi.step_runsOn_or_ending hb (by rw [nextEvent_of_inputs hs]; nofun) hstep with hr | ⟨hyes, -, -⟩
  · have hbt : t.status.busy = true := hr.keeps.busy.trans hb
    obtain ⟨u, hstep', hu, hr', hiu, hhu⟩ := (step_walkInv hi hstep).response_turn hbt (inputs_of_step hs hstep)
    exact ⟨t, u, hstep, hstep', hu, hiu, hr'.keeps.busy.trans hbt, hhu⟩
  · rw [hno] at hyes
    cases hyes

/-- One turn lets a waiting command have its response, and 32 more end every command. -/
theorem ends_over_33_fairTurns {s : State} (hi : WalkInv s) (hb : s.status.busy = true) (hs : s.inputs = fairTurns 33) :
    ∃ t, Sys2Proof.core.run 66 s = Host.Outcome.next t ∧ t.status.busy = false := by
  cases hh : hashEnabled s
  · exact ends_over_fairTurns 33 s hi hb hh hs (by omega)
  · obtain ⟨t, u, hstep, hstep', hu, hiu, hbu, hhu⟩ := hi.waiting_turn hb hh hs
    obtain ⟨v, hv, hbv⟩ := ends_over_fairTurns 32 u hiu hbu hhu hu (by omega)
    exact ⟨v, (run_succ_of_step hstep 65).trans ((run_succ_of_step hstep' 64).trans hv), hbv⟩

/-! ## The obligation -/

/-- Settles O52: by the bounds on the counts; in fair runs by their growth; without the hash by what the command waits for; over
the alternation by the step of each turn. -/
theorem runningCommandEnds : Obligations.RunningCommandEnds := by
  refine ⟨fun s k hi hrun => ?_, fun ev st hrun h0 _ hengine hready hanswers => ?_, fun ev st hrun hb hreset h k => ?_,
    fun s hi hb => ?_⟩
  · obtain ⟨t, ht, hengine, hhash⟩ := work_of_running k s hi hrun
    obtain ⟨hboundE, hboundH⟩ := ht.work_bounds
    exact ⟨by omega, by omega⟩
  · exact hrun.ends_of_fair h0 hengine hready hanswers
  · rcases h with ⟨hph, ⟨m, hm⟩, hno⟩ | ⟨hph, hno⟩
    · obtain ⟨hbk, hphk, -⟩ := hrun.waits_for_response hb hreset hph hm hno k
      exact ⟨hbk, hphk.trans hph.symm⟩
    · obtain ⟨hbk, hphk⟩ := hrun.waits_for_ready hb hreset hph hno k
      exact ⟨hbk, hphk.trans hph.symm⟩
  · exact ends_over_33_fairTurns (hi.frame s.ie s.status.rej (fairTurns 33) s.turn s.resp) hb rfl

end Sys2Proof.Machine
end
